-- ==== Sys2Proof/Word.lean ====
section
/-!
DEFINITION. The plainest data of FME (spec/00_scope.md R8): bytes, byte strings, cipher blocks and the 16-bit
command word (spec/30_encoding.md R77). FME has no signed quantity, so there is no signed type here.
-/

namespace Sys2Proof

/-- One byte on the wire. -/
abbrev Byte := BitVec 8

/-- A byte string (R8): its first byte is the first byte on the wire. -/
abbrev Bytes := List Byte

/-- A cipher block: a byte string of exactly `n` bytes. `E` and `D` are typed on it (R10, R204), so no other length can be
handed to them or come back from them. -/
abbrev Block (n : Nat) := List.Vector Byte n

/-- The command word of the `HOST` port (R77, R83): one length, 16 bits. -/
abbrev CmdWord := BitVec 16

end Sys2Proof
end

