-- ==== Sys2Proof/Config.lean ====
section
/-!
DEFINITION. What is fixed for the machine and what the spec leaves open (spec/00_scope.md R6, R10;
spec/92_eei_decisions.md, "Open parameters"): the block size `B`, the collaborators `E`, `D`, `PadApply`, `PadRemove`,
and the byte source. Every one of them is an uninterpreted constant: nothing can be proved of its value.
The designated polynomials (R68) are a table of the spec and stand in Machine/Operands.lean.
-/

namespace Sys2Proof

/-- How a byte source ends after its chunks (R111): it answers `End` for ever, or it fails. -/
inductive SourceEnd where
  | eof
  | failure
deriving DecidableEq, Repr, Inhabited

/-- The byte source on port `SRC`, as the answers it has still to give (R111): a finite list of chunks, then its end. -/
structure Source where
  chunks : List Bytes
  ending : SourceEnd
deriving DecidableEq, Repr, Inhabited

/-- The collaborators reached through the ports `CIPH` and `PAD` (R10, R51). All four are functions: `E` and `D` by the
source's own words, the padding pair by decision D26. They are indexed by the block size, which is one fixed number in
any machine. No law relates them (R10, R220). -/
structure Collab where
  E : (n : Nat) → Block n → Block n
  D : (n : Nat) → Block n → Block n
  padApply : Nat → Bytes → Bytes
  padRemove : Nat → Bytes → Bytes

/-- The block size less one; `B` is a positive integer and the source names no value (R6). Free (log 1). -/
opaque Config.blockSizePred : Nat

/-- `B`, the block size in bytes (R6, R36): positive, otherwise open. -/
def Config.blockSize : Nat := Config.blockSizePred + 1

/-- `E`, the cipher primitive's `encrypt_block` (R10). Free (log 2). -/
opaque Config.encryptBlock : (n : Nat) → Block n → Block n

/-- `D`, the cipher primitive's `decrypt_block` (R10). Free (log 2). -/
opaque Config.decryptBlock : (n : Nat) → Block n → Block n

/-- `PadApply`, the padding collaborator's `apply` (R10, R125). Free (log 3). -/
opaque Config.padApply : Nat → Bytes → Bytes

/-- `PadRemove`, the padding collaborator's `remove` (R10, R124). Free (log 3). -/
opaque Config.padRemove : Nat → Bytes → Bytes

/-- The content of a byte source that the outside world attached and that no state names: the `j`-th of them. Free
(log 4). -/
opaque Config.freeSource : Nat → Source

/-- The collaborators attached to the machine. -/
def Config.collab : Collab where
  E := Config.encryptBlock
  D := Config.decryptBlock
  padApply := Config.padApply
  padRemove := Config.padRemove

end Sys2Proof
end

