-- ==== Sys2Proof/Syntax.lean ====
section
/-!
DEFINITION. The command set of FME (spec/30_encoding.md R78 to R80, spec/opcode_table.json): one constructor of `Instr`
for each row of the table, with the typed operands of R80, and the values those operands and the registers take.
-/

namespace Sys2Proof

/-- A field element `(n, v)` (R8, R65): width `n` and bit vector `v` of width `n`, held as the integer it denotes. The
width is a run-time quantity with no upper bound (R103, D34), so `v < 2 ^ n` is a check (WellFormed.lean). -/
structure Elem where
  n : Nat
  v : Nat
deriving DecidableEq, Repr, Inhabited

/-- An exponent set (R67), written in the one form in which equal sets are equal lists: strictly falling. -/
abbrev ExpSet := List Nat

/-- The registers of R41, under the spec's names. -/
inductive Reg where
  | bsize | nonce | cw | iv | header | hlenCfg | poly
  | mode | dir | phase | fault | verify | cv | ctr | acc | h | ek | blkcnt | hlen
  | seqPhase | la
deriving DecidableEq, Repr

/-- The types of R41's table. -/
inductive Kind where
  | int | bytes | poly | elem | bits1 | bits2 | bits3
deriving DecidableEq, Repr

/-- A typed value: an operand (R80), a register's value (R41) or a response's payload (R81). -/
inductive Value where
  | int (v : Nat)
  | bytes (s : Bytes)
  | poly (p : Option ExpSet)
  | elem (x : Elem)
  | bits1 (b : BitVec 1)
  | bits2 (b : BitVec 2)
  | bits3 (b : BitVec 3)
deriving DecidableEq, Repr

/-- The type a value is of. -/
def Value.kind : Value → Kind
  | .int _ => .int
  | .bytes _ => .bytes
  | .poly _ => .poly
  | .elem _ => .elem
  | .bits1 _ => .bits1
  | .bits2 _ => .bits2
  | .bits3 _ => .bits3

/-- The type column of R41. -/
def Reg.kind : Reg → Kind
  | .bsize | .cw | .hlenCfg | .ctr | .blkcnt | .hlen => .int
  | .nonce | .iv | .header | .cv | .la => .bytes
  | .poly => .poly
  | .acc | .h | .ek => .elem
  | .dir => .bits1
  | .mode | .verify | .seqPhase => .bits2
  | .phase | .fault => .bits3

/-- The commands, one constructor for each row of spec/opcode_table.json, with the operands of R80. -/
inductive Instr where
  | feNew (n v : Nat)
  | feToint (a : Elem)
  | feXor (a b : Elem)
  | feMult (a b : Elem) (p : Option ExpSet)
  | seqNext
  | startEcbEnc
  | startEcbDec
  | startCbcEnc
  | startCbcDec
  | startCtrEnc
  | startCtrDec
  | startAeadEnc
  | startAeadDec
  | pull
  | abandon
  | cfgWr (r : Reg) (x : Value)
  | regRd (r : Reg)
deriving DecidableEq, Repr

/-- What one transaction of the `HOST` port carries towards FME (R51, R80): the command word and its typed operands, in
the order R80 lists them. Their wire layout is an OPEN parameter (`OPERAND_LAYOUT`, D3; log 5). -/
structure Command where
  word : CmdWord
  operands : List Value
deriving DecidableEq, Repr

end Sys2Proof
end

