-- ==== Sys2Proof/WellFormed.lean ====
section
/-!
DEFINITION. Which instructions can be expressed (spec/30_encoding.md R80, D34): "Operands cannot be ill-typed". Each
check is a Bool; an instruction that fails one is not an instruction of FME, and no command decodes to it.
-/

namespace Sys2Proof

/-- An element has width `n ≥ 1` (R80, D34) and `0 ≤ v < 2 ^ n` (R65). -/
def Elem.wf (x : Elem) : Bool := decide (0 < x.n) && decide (x.v < 2 ^ x.n)

/-- An exponent set in its one form (R67): strictly falling, so that no exponent occurs twice. -/
def ExpSet.wf : ExpSet → Bool
  | [] => true
  | [_] => true
  | e :: f :: rest => decide (f < e) && ExpSet.wf (f :: rest)

/-- A polynomial operand: `NONE`, or an exponent set. -/
def polyWf : Option ExpSet → Bool
  | none => true
  | some p => ExpSet.wf p

/-- A value of its type. -/
def Value.wf : Value → Bool
  | .elem x => x.wf
  | .poly p => polyWf p
  | .int _ | .bytes _ | .bits1 _ | .bits2 _ | .bits3 _ => true

/-- A value fit for a register: well formed and of the register's type (R41, R80). DESIGN CHOICE: the type is the kind of value
alone; the lengths and widths that R41 gives some read-only registers (`CV`, `LA`, `ACC`, `H`, `EK`) are not part of it
(log 24). -/
def Value.fits (r : Reg) (x : Value) : Bool := x.wf && decide (x.kind = r.kind)

/-- The well-formed instructions. -/
def Instr.wf : Instr → Bool
  | .feNew n _ => decide (0 < n)
  | .feToint a => a.wf
  | .feXor a b => a.wf && b.wf
  | .feMult a b p => a.wf && b.wf && polyWf p
  | .cfgWr r x => x.fits r
  | .seqNext | .startEcbEnc | .startEcbDec | .startCbcEnc | .startCbcDec | .startCtrEnc | .startCtrDec
  | .startAeadEnc | .startAeadDec | .pull | .abandon | .regRd _ => true

end Sys2Proof
end

