-- ==== Sys2Proof/Decode.lean ====
section
/-!
DEFINITION. Decoding a command, and encoding one (spec/30_encoding.md Part 2: R77 the word's fields, R78 the opcode
map, R79 the `START` words, R80 operands, R82 reserved words; spec/10_state.md R41 register numbers). The decoder is
total: every command gives an instruction or a reason by name.
-/

namespace Sys2Proof

/-! ### The fields of the command word (R77) -/

/-- `OP`, bits 3:0. -/
def opField (w : CmdWord) : BitVec 4 := w.extractLsb' 0 4

/-- `MODE`, bits 6:4. -/
def modeField (w : CmdWord) : BitVec 3 := w.extractLsb' 4 3

/-- `DIR`, bit 7. -/
def dirField (w : CmdWord) : BitVec 1 := w.extractLsb' 7 1

/-- `REG`, bits 15:8. -/
def regField (w : CmdWord) : BitVec 8 := w.extractLsb' 8 8

/-! ### Register numbers (R41) -/

/-- The number of a register. -/
def Reg.number : Reg → BitVec 8
  | .bsize => 0x00
  | .nonce => 0x01
  | .cw => 0x02
  | .iv => 0x03
  | .header => 0x04
  | .hlenCfg => 0x05
  | .poly => 0x06
  | .mode => 0x10
  | .dir => 0x11
  | .phase => 0x12
  | .fault => 0x13
  | .verify => 0x14
  | .cv => 0x15
  | .ctr => 0x16
  | .acc => 0x17
  | .h => 0x18
  | .ek => 0x19
  | .blkcnt => 0x1A
  | .hlen => 0x1B
  | .seqPhase => 0x20
  | .la => 0x21

/-- The register a number names; "Every other number is reserved" (R41). -/
def Reg.ofNumber (k : BitVec 8) : Option Reg :=
  match k.toNat with
  | 0x00 => some .bsize
  | 0x01 => some .nonce
  | 0x02 => some .cw
  | 0x03 => some .iv
  | 0x04 => some .header
  | 0x05 => some .hlenCfg
  | 0x06 => some .poly
  | 0x10 => some .mode
  | 0x11 => some .dir
  | 0x12 => some .phase
  | 0x13 => some .fault
  | 0x14 => some .verify
  | 0x15 => some .cv
  | 0x16 => some .ctr
  | 0x17 => some .acc
  | 0x18 => some .h
  | 0x19 => some .ek
  | 0x1A => some .blkcnt
  | 0x1B => some .hlen
  | 0x20 => some .seqPhase
  | 0x21 => some .la
  | _ => none

/-! ### From the word to the row it selects -/

/-- Why a command is no instruction. All but the last are the reserved words of R82. -/
inductive DecodeError where
  /-- `OP ∈ {0x0, 0xB … 0xF}` -/
  | reservedOp
  /-- `OP = START` and `MODE ∈ {4 … 7}` -/
  | reservedMode
  /-- `OP ≠ START` and `MODE ≠ 0` or `DIR ≠ 0` -/
  | strayModeOrDir
  /-- `REG ≠ 0` in a command that takes no register -/
  | strayReg
  /-- `REG` is not a number of R41, in `CFG.WR` or `REG.RD` -/
  | unknownRegister
  /-- the operands are not those of R80: such a command "cannot be expressed" -/
  | illTypedOperands
deriving DecidableEq, Repr

/-- What a command word selects: a row of the opcode table, with the register the word names. -/
inductive Row where
  | feNew | feToint | feXor | feMult | seqNext
  | startEcbEnc | startEcbDec | startCbcEnc | startCbcDec
  | startCtrEnc | startCtrDec | startAeadEnc | startAeadDec
  | pull | abandon
  | cfgWr (r : Reg)
  | regRd (r : Reg)
deriving DecidableEq, Repr

/-- The eight `START` words (R79). -/
def decodeStart (mode : BitVec 3) (dir : BitVec 1) : Except DecodeError Row :=
  match mode.toNat, dir.toNat with
  | 0, 0 => .ok .startEcbEnc
  | 0, 1 => .ok .startEcbDec
  | 1, 0 => .ok .startCbcEnc
  | 1, 1 => .ok .startCbcDec
  | 2, 0 => .ok .startCtrEnc
  | 2, 1 => .ok .startCtrDec
  | 3, 0 => .ok .startAeadEnc
  | 3, 1 => .ok .startAeadDec
  | _, _ => .error .reservedMode

/-- The opcodes that take neither a mode nor a register (R78). -/
def decodePlain (op : BitVec 4) : Except DecodeError Row :=
  match op.toNat with
  | 0x1 => .ok .feNew
  | 0x2 => .ok .feToint
  | 0x3 => .ok .feXor
  | 0x4 => .ok .feMult
  | 0x5 => .ok .seqNext
  | 0x7 => .ok .pull
  | 0x8 => .ok .abandon
  | _ => .error .reservedOp

/-- The two register commands (R78): `CFG.WR` and `REG.RD`. -/
def decodeRegister (op : BitVec 4) (reg : BitVec 8) : Except DecodeError Row :=
  match Reg.ofNumber reg with
  | none => .error .unknownRegister
  | some r => if op = 0x9 then .ok (.cfgWr r) else .ok (.regRd r)

/-- The reserved opcodes (R78): `0x0` and `0xB` to `0xF`. -/
def opReserved (op : BitVec 4) : Bool := op = 0x0 || decide (0xB ≤ op.toNat)

/-- The row a word selects, or why it is reserved (R78, R79, R82). -/
def decodeWord (w : CmdWord) : Except DecodeError Row :=
  if opReserved (opField w) then .error .reservedOp
  else if opField w = 0x6 then
    if regField w ≠ 0 then .error .strayReg else decodeStart (modeField w) (dirField w)
  else if modeField w ≠ 0 ∨ dirField w ≠ 0 then .error .strayModeOrDir
  else if opField w = 0x9 ∨ opField w = 0xA then decodeRegister (opField w) (regField w)
  else if regField w ≠ 0 then .error .strayReg
  else decodePlain (opField w)

/-! ### Operands (R80) -/

/-- The instruction made of a row and its operands, or nothing when their number or types are not R80's. -/
def attachOperands : Row → List Value → Option Instr
  | .feNew, [.int n, .int v] => some (.feNew n v)
  | .feToint, [.elem a] => some (.feToint a)
  | .feXor, [.elem a, .elem b] => some (.feXor a b)
  | .feMult, [.elem a, .elem b, .poly p] => some (.feMult a b p)
  | .seqNext, [] => some .seqNext
  | .startEcbEnc, [] => some .startEcbEnc
  | .startEcbDec, [] => some .startEcbDec
  | .startCbcEnc, [] => some .startCbcEnc
  | .startCbcDec, [] => some .startCbcDec
  | .startCtrEnc, [] => some .startCtrEnc
  | .startCtrDec, [] => some .startCtrDec
  | .startAeadEnc, [] => some .startAeadEnc
  | .startAeadDec, [] => some .startAeadDec
  | .pull, [] => some .pull
  | .abandon, [] => some .abandon
  | .cfgWr r, [x] => some (.cfgWr r x)
  | .regRd r, [] => some (.regRd r)
  | _, _ => none

/-- The instruction a command stands for. A reserved word is named as such whatever comes with it; the operands of a
row must be the well-formed ones R80 lists. -/
def decode (c : Command) : Except DecodeError Instr :=
  match decodeWord c.word with
  | .error e => .error e
  | .ok row =>
    match attachOperands row c.operands with
    | none => .error .illTypedOperands
    | some i => if i.wf then .ok i else .error .illTypedOperands

/-! ### The opcode table (spec/opcode_table.json) -/

/-- One row of the opcode table: a word `w` matches it when `w and mask = pattern` (R82). -/
structure TableRow where
  mnemonic : String
  pattern : CmdWord
  mask : CmdWord
deriving DecidableEq, Repr

/-- The rows of the opcode table, in its order. -/
def opcodeTable : List TableRow :=
  [⟨"FE.NEW", 0x0001, 0xFFFF⟩, ⟨"FE.TOINT", 0x0002, 0xFFFF⟩, ⟨"FE.XOR", 0x0003, 0xFFFF⟩, ⟨"FE.MULT", 0x0004, 0xFFFF⟩,
   ⟨"SEQ.NEXT", 0x0005, 0xFFFF⟩,
   ⟨"START.ECB.ENC", 0x0006, 0xFFFF⟩, ⟨"START.ECB.DEC", 0x0086, 0xFFFF⟩,
   ⟨"START.CBC.ENC", 0x0016, 0xFFFF⟩, ⟨"START.CBC.DEC", 0x0096, 0xFFFF⟩,
   ⟨"START.CTR.ENC", 0x0026, 0xFFFF⟩, ⟨"START.CTR.DEC", 0x00A6, 0xFFFF⟩,
   ⟨"START.AEAD.ENC", 0x0036, 0xFFFF⟩, ⟨"START.AEAD.DEC", 0x00B6, 0xFFFF⟩,
   ⟨"PULL", 0x0007, 0xFFFF⟩, ⟨"ABANDON", 0x0008, 0xFFFF⟩,
   ⟨"CFG.WR", 0x0009, 0x00FF⟩, ⟨"REG.RD", 0x000A, 0x00FF⟩]

/-- A word matches a row (R82). -/
def TableRow.matchesWord (row : TableRow) (w : CmdWord) : Bool := w &&& row.mask = row.pattern

/-- The row of an instruction, as the table names it. -/
def Instr.mnemonic : Instr → String
  | .feNew _ _ => "FE.NEW"
  | .feToint _ => "FE.TOINT"
  | .feXor _ _ => "FE.XOR"
  | .feMult _ _ _ => "FE.MULT"
  | .seqNext => "SEQ.NEXT"
  | .startEcbEnc => "START.ECB.ENC"
  | .startEcbDec => "START.ECB.DEC"
  | .startCbcEnc => "START.CBC.ENC"
  | .startCbcDec => "START.CBC.DEC"
  | .startCtrEnc => "START.CTR.ENC"
  | .startCtrDec => "START.CTR.DEC"
  | .startAeadEnc => "START.AEAD.ENC"
  | .startAeadDec => "START.AEAD.DEC"
  | .pull => "PULL"
  | .abandon => "ABANDON"
  | .cfgWr _ _ => "CFG.WR"
  | .regRd _ => "REG.RD"

/-! ### Operands of a bare word -/

/-- The least value of a type: what the model puts beside a word that comes alone (log 5). -/
def Kind.least : Kind → Value
  | .int => .int 0
  | .bytes => .bytes []
  | .poly => .poly none
  | .elem => .elem ⟨1, 0⟩
  | .bits1 => .bits1 0
  | .bits2 => .bits2 0
  | .bits3 => .bits3 0

/-- The least operands of a row: width 1 is the least width (R80), every other number 0. -/
def Row.leastOperands : Row → List Value
  | .feNew => [.int 1, .int 0]
  | .feToint => [.elem ⟨1, 0⟩]
  | .feXor => [.elem ⟨1, 0⟩, .elem ⟨1, 0⟩]
  | .feMult => [.elem ⟨1, 0⟩, .elem ⟨1, 0⟩, .poly none]
  | .cfgWr r => [r.kind.least]
  | .seqNext | .startEcbEnc | .startEcbDec | .startCbcEnc | .startCbcDec | .startCtrEnc | .startCtrDec
  | .startAeadEnc | .startAeadDec | .pull | .abandon | .regRd _ => []

/-- The command a bare word stands for: the word, with the least operands of its row. -/
def bareCommand (w : CmdWord) : Command where
  word := w
  operands :=
    match decodeWord w with
    | .ok row => row.leastOperands
    | .error _ => []

/-- The instruction the decoder reads from an instruction whose bits are `w` (bit 0 the least significant bit of the
command word, as the table's `match` and `mask` number them). A command is one 16-bit word (R83), so a number with a
bit above bit 15 is no command. -/
def decodeTableWord (_nbits w : Nat) : Option Instr :=
  if w < 2 ^ 16 then
    match decode (bareCommand (BitVec.ofNat 16 w)) with
    | .ok i => some i
    | .error _ => none
  else none

/-! ### The encoder -/

/-- A command word from its fields (R77). -/
def makeWord (op : BitVec 4) (mode : BitVec 3) (dir : BitVec 1) (reg : BitVec 8) : CmdWord :=
  reg ++ dir ++ mode ++ op

/-- The command of an instruction: its word by R78 and R79, its operands in the order of R80. -/
def encode : Instr → Command
  | .feNew n v => ⟨makeWord 0x1 0 0 0, [.int n, .int v]⟩
  | .feToint a => ⟨makeWord 0x2 0 0 0, [.elem a]⟩
  | .feXor a b => ⟨makeWord 0x3 0 0 0, [.elem a, .elem b]⟩
  | .feMult a b p => ⟨makeWord 0x4 0 0 0, [.elem a, .elem b, .poly p]⟩
  | .seqNext => ⟨makeWord 0x5 0 0 0, []⟩
  | .startEcbEnc => ⟨makeWord 0x6 0 0 0, []⟩
  | .startEcbDec => ⟨makeWord 0x6 0 1 0, []⟩
  | .startCbcEnc => ⟨makeWord 0x6 1 0 0, []⟩
  | .startCbcDec => ⟨makeWord 0x6 1 1 0, []⟩
  | .startCtrEnc => ⟨makeWord 0x6 2 0 0, []⟩
  | .startCtrDec => ⟨makeWord 0x6 2 1 0, []⟩
  | .startAeadEnc => ⟨makeWord 0x6 3 0 0, []⟩
  | .startAeadDec => ⟨makeWord 0x6 3 1 0, []⟩
  | .pull => ⟨makeWord 0x7 0 0 0, []⟩
  | .abandon => ⟨makeWord 0x8 0 0 0, []⟩
  | .cfgWr r x => ⟨makeWord 0x9 0 0 r.number, [x]⟩
  | .regRd r => ⟨makeWord 0xA 0 0 r.number, []⟩

end Sys2Proof
end

