-- ==== Sys2Proof/Machine/State.lean ====
section
/-!
DEFINITION. The state of FME (spec/10_state.md R20 to R46), the ports it is driven through (spec/20_memory.md R51),
the responses it gives (spec/30_encoding.md R81), and its value after reset (spec/70_reset_and_hazards.md R211).
-/

namespace Sys2Proof.Machine

/-- `MODE` (R28): the closed set of session modes. -/
inductive Mode where
  | ecb | cbc | ctr | aead
deriving DecidableEq, Repr

/-- `DIR` (R28). -/
inductive Dir where
  | enc | dec
deriving DecidableEq, Repr

/-- `PHASE` (R29). Codes 6 and 7 "are never written" and have no name here. -/
inductive Phase where
  | idle | start | chaining | final | done | faulted
deriving DecidableEq, Repr

/-- The seven fault classes of FME (R185, R193): what a command answers and what the register `FAULT` holds. They are
responses of the machine, which goes on; the reasons for which the MODEL stops are `Fault` and `Refusal` below. -/
inductive FaultClass where
  | configuration | paddingScheme | stream | internalInvariant | range | argument | blockLength
deriving DecidableEq, Repr

/-- `VERIFY` (R31): bit 1 `VALID`, bit 0 `OK`. -/
structure Verify where
  valid : Bool
  ok : Bool
deriving DecidableEq, Repr

/-- The sequencer registers `SEQ_PHASE` and `LA` (R37) as one datum: `LA` holds a value exactly when `SEQ_PHASE` is
`PRIMED` (log 10). -/
inductive Sequencer where
  | unprimed
  | primed (la : Bytes)
  | exhausted
  | failed
deriving DecidableEq, Repr

/-- `SrcNext()`'s three answers (R111). -/
inductive SrcAnswer where
  | chunk (c : Bytes)
  | eof
  | failure
deriving DecidableEq, Repr

/-- One transaction of the ports `SRC`, `CIPH` and `PAD` (R51), for the call log of R62. -/
inductive PortCall where
  | srcNext (answer : SrcAnswer)
  | encrypt (block : Bytes)
  | decrypt (block : Bytes)
  | padApply (chunk : Bytes)
  | padRemove (block : Bytes)
deriving DecidableEq, Repr

/-- The responses of R81. `Done` carries the verification outcome for AEAD decrypt only. -/
inductive Response where
  | ok
  | elem (x : Elem)
  | int (v : Nat)
  | value (x : Value)
  | item (chunk : Bytes) (isLast : Bool)
  | endOfItems
  | out (bytes : Bytes)
  | done (verify : Option Bool)
  | fault (x : FaultClass)
  | rejected
deriving DecidableEq, Repr

/-- The state of the machine. `none` in a register is the spec's `NOVALUE` (R20), except in `poly`, where it is the
value `NONE` (R35), and in `fault`, where it is the code 0 (R30). -/
structure State where
  /-- `BSIZE`, hardwired to `B` (R36): no command writes it -/
  bsize : Nat
  /-- `NONCE` (R32) -/
  nonce : Option Bytes
  /-- `CW` (R32) -/
  cw : Option Nat
  /-- `IV` (R33) -/
  iv : Option Bytes
  /-- `HEADER` (R34) -/
  header : Option Bytes
  /-- `HLEN_CFG` (R34) -/
  hlenCfg : Option Nat
  /-- `POLY` (R35): `NONE` or an exponent set -/
  poly : Option ExpSet
  /-- `MODE` (R28) -/
  mode : Option Mode
  /-- `DIR` (R28) -/
  dir : Option Dir
  /-- `PHASE` (R29) -/
  phase : Phase
  /-- `FAULT` (R30) -/
  fault : Option FaultClass
  /-- `VERIFY` (R31) -/
  verify : Verify
  /-- `CV` (R22) -/
  cv : Option Bytes
  /-- `CTR` (R23) -/
  ctr : Option Nat
  /-- `ACC` (R24) -/
  acc : Option Elem
  /-- `H` (R25) -/
  h : Option Elem
  /-- `EK` (R25) -/
  ek : Option Elem
  /-- `BLKCNT` (R26) -/
  blkcnt : Option Nat
  /-- `HLEN` (R27) -/
  hlen : Option Nat
  /-- `SEQ_PHASE` and `LA` (R37) -/
  seq : Sequencer
  /-- port `SRC`: the attached byte source (R111, R119); `none` while nobody has said what it holds (log 4) -/
  src : Option Source
  /-- port `SRC`: the sources that the coming `START`s and `ABANDON`s attach, first one first (R119; log 4) -/
  sources : List Source
  /-- the model's own counter of sources whose content is a free value (log 4) -/
  drawn : Nat
  /-- port `HOST`, inwards: the commands issued and not yet run, first one first (R51, R58; log 6) -/
  pending : List Command
  /-- port `HOST`, outwards: the responses given, newest first (R81; log 11) -/
  responses : List Response
  /-- the call log of R62: the transactions of `SRC`, `CIPH` and `PAD`, newest first (log 11) -/
  calls : List PortCall
deriving DecidableEq, Repr

/-- Why a step of the MODEL is stuck. None of these is a fault of FME (those are `FaultClass`); each stands for a state
that no run from reset reaches, in which the spec's pseudocode has no next line (log 8). -/
inductive Fault where
  /-- A mode step or a pull reads a register that holds no value, which "no rule of this spec" does (R20). Raised by the
  `PULL` steps. Safe. -/
  | readsNoValue (r : Reg)
  /-- A session is active and `MODE` or `DIR` holds no value, so R172's dispatch has no row. Raised by `PULL`. Safe. -/
  | noSessionKind
  /-- A session is in a phase that R29's table does not give its kind. Raised by the `PULL` steps. Safe. -/
  | phaseNotOfSession
  /-- A mode step asks for an item after the last one (R112 `EXHAUSTED`), where it has no `(c, last)` to take. Raised by
  the `PULL` steps. Safe. -/
  | itemAfterLast
  /-- `PHASE` is `FAULTED` and `FAULT` is 0, so there is no code to repeat (R172). Raised by `PULL`. Safe. -/
  | faultedWithoutCode
deriving DecidableEq, Repr

/-- Why a step has no meaning. -/
inductive Refusal where
  /-- An instruction whose meaning is not written. Raised by no arm. Safe. -/
  | notModelled (mnemonic : String)
  /-- The attached byte source holds a chunk longer than `B`: "the model should refuse: the type of `SrcNext()` excludes
  it" (R117, R204). Raised where the source is read: by `SEQ.NEXT`, and by the `PULL` steps that take an item. Safe (log 12). -/
  | chunkLongerThanBlock
  /-- The operands are not of R80's types: "cannot be expressed". Raised by the step for such a command and by `CFG.WR`
  for such a value. Safe (log 5). -/
  | operandsInexpressible
deriving DecidableEq, Repr

/-- What an instruction or a step answers. -/
abbrev Result := Host.Outcome State Fault Refusal

/-- The state after reset (R43, R211). The ports are empty: nobody has attached a source, issued a command or been
answered (log 20). -/
def State.reset : State where
  bsize := Config.blockSize
  nonce := none
  cw := none
  iv := none
  header := none
  hlenCfg := none
  poly := none
  mode := none
  dir := none
  phase := .idle
  fault := none
  verify := ⟨false, false⟩
  cv := none
  ctr := none
  acc := none
  h := none
  ek := none
  blkcnt := none
  hlen := none
  seq := .unprimed
  src := none
  sources := []
  drawn := 0
  pending := []
  responses := []
  calls := []

end Sys2Proof.Machine
end

