-- ==== Sys2Proof/Machine/Operands.lean ====
section
/-!
DEFINITION. The forms data takes inside FME (spec/00_scope.md R8; spec/30_encoding.md Part 1): byte strings, the
integers and elements they stand for, counter blocks, the length element, and reduction polynomials.
-/

namespace Sys2Proof.Machine

/-! ### Byte strings and integers (R8, R52) -/

/-- `BE(v, k)`: the `k`-byte big-endian form of `v`, meant for `v < 2 ^ (8 * k)`. -/
def beBytes (v : Nat) : Nat → Bytes
  | 0 => []
  | k + 1 => beBytes (v / 256) k ++ [BitVec.ofNat 8 v]

/-- `INT(s)`: the big-endian integer value of a byte string; `INT(ε) = 0`. -/
def intOf (s : Bytes) : Nat := s.foldl (fun v b => v * 256 + b.toNat) 0

/-- `bxor(s, t)`: the bytewise XOR of two strings of one length. -/
def bxor (s t : Bytes) : Bytes := List.zipWith (· ^^^ ·) s t

/-- `0^k`: `k` zero bytes. -/
def zeroBytes (k : Nat) : Bytes := List.replicate k 0

/-- A byte string as a cipher block (R53). Every caller hands over exactly `n` bytes; the other branch is reached by no
step (log 17). -/
def toBlock (n : Nat) (s : Bytes) : Block n :=
  if h : s.length = n then ⟨s, h⟩ else List.Vector.replicate n 0

/-- `E(b)` as a function on byte strings (R10). -/
def encryptBlock (k : Collab) (n : Nat) (b : Bytes) : Bytes := (k.E n (toBlock n b)).toList

/-- `D(b)` as a function on byte strings (R10). -/
def decryptBlock (k : Collab) (n : Nat) (b : Bytes) : Bytes := (k.D n (toBlock n b)).toList

/-! ### Blocks and elements (R69) -/

/-- `ELEM(b) = (8B, INT(b))`, for block size `n`. -/
def elemOfBlock (n : Nat) (b : Bytes) : Elem := ⟨8 * n, intOf b⟩

/-- `BLOCK((8B, v)) = BE(v, B)`, for block size `n`. -/
def blockOfElem (n : Nat) (x : Elem) : Bytes := beBytes x.v n

/-- `CTRBLK(c) = NONCE ‖ BE(c, CW)` (R70). -/
def counterBlock (nonce : Bytes) (cw c : Nat) : Bytes := nonce ++ beBytes c cw

/-- `HDRBLK = BE(INT(HEADER), B)` (R72): zero bytes in front of the header. -/
def headerBlock (n : Nat) (header : Bytes) : Bytes := beBytes (intOf header) n

/-- The integer of the length element (R71), `(HLEN << (n/2)) | BLKCNT` with `n` the field width. -/
def lengthInt (n hlen blkcnt : Nat) : Nat := (hlen <<< (n / 2)) ||| blkcnt

/-- The counter no longer fits `CW` bytes (R146): `CTR ≥ 2^(8·CW)`. -/
def counterSpent (cw c : Nat) : Bool := decide (2 ^ (8 * cw) ≤ c)

/-! ### Reduction polynomials (R67, R68, R90) -/

/-- `STDPOLY(n)`, the designated polynomials (R68). -/
def stdPoly (n : Nat) : Option ExpSet :=
  match n with
  | 8 => some [8, 4, 3, 1, 0]
  | 64 => some [64, 4, 3, 1, 0]
  | 128 => some [128, 7, 2, 1, 0]
  | 256 => some [256, 10, 5, 2, 0]
  | 512 => some [512, 8, 5, 2, 0]
  | _ => none

/-- `DENSE(P)` (R67). Each exponent sets its bit, so that membership alone counts (spec/90_conflicts.md C7). -/
def dense : ExpSet → Nat
  | [] => 0
  | e :: rest => (1 <<< e) ||| dense rest

/-- `max(P) = n` (R90); the empty set has no highest exponent and equals no width. -/
def degreeIs (p : ExpSet) (n : Nat) : Bool := decide (p.max? = some n)

/-- `SELPOLY(n, Popt)` (R90): a supplied polynomial at any width, else the designated one. -/
def selPoly (n : Nat) (popt : Option ExpSet) : Except FaultClass ExpSet :=
  match popt with
  | some p => if degreeIs p n then .ok p else .error .configuration
  | none =>
    match stdPoly n with
    | some p => if degreeIs p n then .ok p else .error .configuration
    | none => .error .configuration

end Sys2Proof.Machine
end

