-- ==== Sys2Proof/Machine/Flags.lean ====
section
/-!
DEFINITION. The two flags of FME (spec/10_state.md R40) and the codes of its status registers (spec/30_encoding.md R86;
spec/60_exceptions.md R193).
-/

namespace Sys2Proof.Machine

/-- `is_last` (R113): 1 exactly on the item whose call sees `End` from the source. -/
def isLastOf : SrcAnswer → Bool
  | .eof => true
  | .chunk _ | .failure => false

/-- `VERIFY` after the tag block `c` has been compared with the recomputed tag block (R162). -/
def verifyOf (tag c : Bytes) : Verify := ⟨true, decide (tag = c)⟩

/-- `VERIFY = 0b00` (R31): no outcome. -/
def Verify.clear : Verify := ⟨false, false⟩

/-- The code of `MODE` (R86). -/
def Mode.code : Mode → BitVec 2
  | .ecb => 0
  | .cbc => 1
  | .ctr => 2
  | .aead => 3

/-- The code of `DIR` (R86). -/
def Dir.code : Dir → BitVec 1
  | .enc => 0
  | .dec => 1

/-- The code of `PHASE` (R86). -/
def Phase.code : Phase → BitVec 3
  | .idle => 0
  | .start => 1
  | .chaining => 2
  | .final => 3
  | .done => 4
  | .faulted => 5

/-- The code of a fault class (R193). -/
def FaultClass.code : FaultClass → BitVec 3
  | .configuration => 1
  | .paddingScheme => 2
  | .stream => 3
  | .internalInvariant => 4
  | .range => 5
  | .argument => 6
  | .blockLength => 7

/-- The code `FAULT` holds: 0 where no fault ended the session (R30, R193). -/
def faultCode : Option FaultClass → BitVec 3
  | none => 0
  | some x => x.code

/-- The code of `VERIFY` (R31): bit 1 `VALID`, bit 0 `OK`. -/
def Verify.code (v : Verify) : BitVec 2 := BitVec.ofBool v.valid ++ BitVec.ofBool v.ok

/-- The code of `SEQ_PHASE` (R86). -/
def Sequencer.code : Sequencer → BitVec 2
  | .unprimed => 0
  | .primed _ => 1
  | .exhausted => 2
  | .failed => 3

/-- The register `LA` (R37): a value only when `SEQ_PHASE = PRIMED`. -/
def Sequencer.la : Sequencer → Option Bytes
  | .primed c => some c
  | .unprimed | .exhausted | .failed => none

/-- A session is active (R170): `PHASE ∈ {START, CHAINING, FINAL}`. -/
def Phase.active : Phase → Bool
  | .start | .chaining | .final => true
  | .idle | .done | .faulted => false

end Sys2Proof.Machine
end

