-- ==== Sys2Proof/Machine/Ops.lean ====
section
/-!
DEFINITION. The named operations on the state that the instructions share: answering, rejecting (spec/46 R176), taking a
fault (spec/60 R197), discarding a session (spec/46 R171, R173), reading the byte source (spec/41 R111, R119), reading
registers inside a step (spec/10 R20), and the two register accesses (spec/46 R178, R179). FME has no memory (spec/20
R50), so there is no operation on memory.
-/

namespace Sys2Proof.Machine

/-! ### Answering -/

/-- `respond X` (R9): the command ends with this response. -/
def respond (r : Response) (s : State) : State := { s with responses := r :: s.responses }

/-- `reject` (R9, R176): "changes no register, makes no port transaction, and is not a fault". The response stays in the
transcript and so marks the run (log 7). -/
def reject (s : State) : State := respond .rejected s

/-- One transaction of `SRC`, `CIPH` or `PAD` enters the call log (R62). -/
def logCall (c : PortCall) (s : State) : State := { s with calls := c :: s.calls }

/-! ### Single registers -/

/-- `SEQ_PHASE` and `LA` written. -/
def setSeq (q : Sequencer) (s : State) : State := { s with seq := q }

/-- `PHASE` written. -/
def setPhase (p : Phase) (s : State) : State := { s with phase := p }

/-- `CV` written; `none` is `CV <- NOVALUE`. -/
def setCv (x : Option Bytes) (s : State) : State := { s with cv := x }

/-- `CTR` written. -/
def setCtr (c : Nat) (s : State) : State := { s with ctr := some c }

/-- `ACC` written. -/
def setAcc (x : Elem) (s : State) : State := { s with acc := some x }

/-- `BLKCNT` written. -/
def setBlkcnt (c : Nat) (s : State) : State := { s with blkcnt := some c }

/-- `VERIFY` written. -/
def setVerify (v : Verify) (s : State) : State := { s with verify := v }

/-- `MODE` and `DIR` written. -/
def setKind (m : Mode) (d : Dir) (s : State) : State := { s with mode := some m, dir := some d }

/-! ### Taking a fault (R197) -/

/-- `on raise X in START or PULL` (R197): `PHASE` and `FAULT` are written, the session's data registers lose their
values, the sequencer, `MODE`, `DIR` and `VERIFY` stay as they are, and the command answers `Fault(code(X))`. There is no
vector, no saved return point and no return (R199): `START` and `ABANDON` alone leave `FAULTED`. -/
def enterFault (x : FaultClass) (s : State) : State :=
  respond (.fault x)
    { s with
      phase := .faulted
      fault := some x
      cv := none
      ctr := none
      acc := none
      h := none
      ek := none
      blkcnt := none
      hlen := none }

/-! ### Discarding a session (R171 common part, R173) and attaching a source (R119) -/

/-- The source the outside world lined up next takes the place of the old one; where none is lined up, one whose content
nobody has said (R119; log 4). -/
def attachSource (s : State) : State := { s with src := s.sources.head?, sources := s.sources.tail }

/-- What `START` (before its mode's rule) and `ABANDON` do: every session register and the sequencer return to their
empty values, `PHASE` to `IDLE`, and a new source is attached. -/
def clearSession (s : State) : State :=
  attachSource
    { s with
      cv := none
      ctr := none
      acc := none
      h := none
      ek := none
      blkcnt := none
      hlen := none
      mode := none
      dir := none
      fault := none
      verify := Verify.clear
      seq := .unprimed
      phase := .idle }

/-! ### The byte source (R111) -/

/-- A source without the chunks' bytes beyond `n`: each chunk has at most `n` bytes. -/
def clipSource (n : Nat) (src : Source) : Source := { src with chunks := src.chunks.map (·.take n) }

/-- `SrcNext()`'s type (R111, R117): no chunk is longer than `B`. -/
def fitsBlock (n : Nat) (src : Source) : Bool := src.chunks.all fun c => decide (c.length ≤ n)

/-- The attached source, if its content is known, obeys `SrcNext()`'s type (R117, R204). -/
def sourceFits (s : State) : Bool :=
  match s.src with
  | none => true
  | some src => fitsBlock s.bsize src

/-- The attached source. Where nobody has said what it holds it is a free value: any source at all of the type `SrcNext()`
allows (log 4). -/
def attachedSource (s : State) : Source := s.src.getD (clipSource s.bsize (Config.freeSource s.drawn))

/-- The next answer of a source and what is left of it (R111): a chunk, or its end, again on any further call. -/
def sourceNext (src : Source) : SrcAnswer × Source :=
  match src.chunks, src.ending with
  | c :: rest, _ => (.chunk c, { src with chunks := rest })
  | [], .eof => (.eof, src)
  | [], .failure => (.failure, src)

/-- `SrcNext()`'s answer in a state. -/
def srcAnswer (s : State) : SrcAnswer := (sourceNext (attachedSource s)).1

/-- The state after `SrcNext()`: the source is one answer further (R56) and the call is logged. -/
def afterSrcNext (s : State) : State :=
  logCall (.srcNext (srcAnswer s))
    { s with
      src := some (sourceNext (attachedSource s)).2
      drawn := if s.src.isNone then s.drawn + 1 else s.drawn }

/-! ### Reading registers and field values inside a step -/

/-- A register that a step reads: its value, or its name where it holds none (R20). -/
def need {α : Type} (r : Reg) (x : Option α) : Except Reg α :=
  match x with
  | some a => .ok a
  | none => .error r

/-- Goes on with the registers' values; a register without a value leaves the step stuck (log 8). -/
def withRegs {α : Type} (x : Except Reg α) (body : α → Result) : Result :=
  match x with
  | .ok a => body a
  | .error r => .fault (.readsNoValue r)

/-- Goes on with the value of a Field Engine operation; "a fault inside them propagates to the step that called them"
(R9). -/
def withValue {α : Type} (x : Except FaultClass α) (s : State) (body : α → Result) : Result :=
  match x with
  | .ok a => body a
  | .error f => .next (enterFault f s)

/-- A configuration register that `START` reads; without a value it is a ConfigurationError (R171, D23). -/
def configured {α : Type} (x : Option α) : Except FaultClass α :=
  match x with
  | some a => .ok a
  | none => .error .configuration

/-! ### Register access (R41, R42, R178, R179) -/

/-- The value a register holds, or none (R20, R41). -/
def readReg (s : State) : Reg → Option Value
  | .bsize => some (.int s.bsize)
  | .nonce => s.nonce.map .bytes
  | .cw => s.cw.map .int
  | .iv => s.iv.map .bytes
  | .header => s.header.map .bytes
  | .hlenCfg => s.hlenCfg.map .int
  | .poly => some (.poly s.poly)
  | .mode => s.mode.map fun m => .bits2 m.code
  | .dir => s.dir.map fun d => .bits1 d.code
  | .phase => some (.bits3 s.phase.code)
  | .fault => some (.bits3 (faultCode s.fault))
  | .verify => some (.bits2 s.verify.code)
  | .cv => s.cv.map .bytes
  | .ctr => s.ctr.map .int
  | .acc => s.acc.map .elem
  | .h => s.h.map .elem
  | .ek => s.ek.map .elem
  | .blkcnt => s.blkcnt.map .int
  | .hlen => s.hlen.map .int
  | .seqPhase => some (.bits2 s.seq.code)
  | .la => s.seq.la.map .bytes

/-- The configuration registers, the only ones a host writes (R41, R178). -/
def isCfgReg : Reg → Bool
  | .nonce | .cw | .iv | .header | .hlenCfg | .poly => true
  | .bsize | .mode | .dir | .phase | .fault | .verify | .cv | .ctr | .acc | .h | .ek | .blkcnt | .hlen
  | .seqPhase | .la => false

/-- `REG <- value` for a configuration register (R178); nothing for a value not of the register's type. -/
def writeCfg (s : State) : Reg → Value → Option State
  | .nonce, .bytes x => some { s with nonce := some x }
  | .cw, .int x => some { s with cw := some x }
  | .iv, .bytes x => some { s with iv := some x }
  | .header, .bytes x => some { s with header := some x }
  | .hlenCfg, .int x => some { s with hlenCfg := some x }
  | .poly, .poly x => some { s with poly := x }
  | _, _ => none

end Sys2Proof.Machine
end

