-- ==== Sys2Proof/Machine/Registers.lean ====
section
/-!
DEFINITION. The register commands (spec/46_session_commands.md R178, R179).
-/

namespace Sys2Proof.Machine

/-- `CFG.WR reg, value` (R178): rejected while a session is active and for any register but the six configuration
registers, whatever the value (log 24); no check of the value (D31). A value not of the register's type "cannot be
expressed" (R80). -/
def execCfgWr (r : Reg) (x : Value) (s : State) : Result :=
  if s.phase.active then .next (reject s)
  else if isCfgReg r = false then .next (reject s)
  else
    match writeCfg s r x with
    | some t => .next (respond .ok t)
    | none => .refused .operandsInexpressible

/-- `REG.RD reg` (R179): legal in every phase; a register that holds no value is rejected (D30). -/
def execRegRd (r : Reg) (s : State) : Result :=
  match readReg s r with
  | some x => .next (respond (.value x) s)
  | none => .next (reject s)

end Sys2Proof.Machine
end

