-- ==== Sys2Proof/Machine/Sequencer.lean ====
section
/-!
DEFINITION. The Block Sequencer (spec/41_block_sequencer.md R110 to R119): the step `SeqNext()`, through which every mode
step gets its input, the host command `SEQ.NEXT`, and the item sequence `FRAME(S, B)` that they deliver.
-/

namespace Sys2Proof.Machine

/-- What `SeqNext()` gives (R112): an item, `End`, or a raised StreamError. -/
inductive SeqResult where
  | item (chunk : Bytes) (isLast : Bool)
  | finished
  | failed
deriving DecidableEq, Repr

/-- The `PRIMED` case of `SeqNext()` (R112), with `la` in `LA`. -/
def seqNextPrimed (la : Bytes) (s : State) : State × SeqResult :=
  match srcAnswer s with
  | .failure => (setSeq .failed (afterSrcNext s), .failed)
  | .eof => (setSeq .exhausted (afterSrcNext s), .item la (isLastOf .eof))
  | .chunk d => (setSeq (.primed d) (afterSrcNext s), .item la (isLastOf (.chunk d)))

/-- `SeqNext()` (R112): the state it leaves and what it gives. From `UNPRIMED` it reads the first chunk and goes on as
`PRIMED`, so that a first call on a source that is not empty makes two `SrcNext()` calls. -/
def seqNext (s : State) : State × SeqResult :=
  match s.seq with
  | .unprimed =>
    match srcAnswer s with
    | .failure => (setSeq .failed (afterSrcNext s), .failed)
    | .eof => (setSeq .exhausted (afterSrcNext s), .item [] (isLastOf .eof))
    | .chunk c => seqNextPrimed c (setSeq (.primed c) (afterSrcNext s))
  | .primed la => seqNextPrimed la s
  | .exhausted => (s, .finished)
  | .failed => (s, .failed)

/-- The response of `SEQ.NEXT` for what `SeqNext()` gave (R118). -/
def SeqResult.response : SeqResult → Response
  | .item c last => .item c last
  | .finished => .endOfItems
  | .failed => .fault .stream

/-- `SEQ.NEXT` (R118): legal in `IDLE` alone. Its StreamError is a response: `PHASE` and `FAULT` stay as they are. -/
def execSeqNext (s : State) : Result :=
  if s.phase ≠ .idle then .next (reject s)
  else if sourceFits s then .next (respond (seqNext s).2.response (seqNext s).1)
  else .refused .chunkLongerThanBlock

/-- `(c, last) <- SeqNext()` inside a mode step: goes on with the item; a StreamError is the fault of the step (R115);
after the last item there is nothing to go on with (log 8). A source that breaks its type is refused (R117). -/
def withItem (s : State) (body : State → Bytes → Bool → Result) : Result :=
  if sourceFits s then
    match (seqNext s).2 with
    | .item c last => body (seqNext s).1 c last
    | .failed => .next (enterFault .stream (seqNext s).1)
    | .finished => .fault .itemAfterLast
  else .refused .chunkLongerThanBlock

/-- What `k` calls of `SeqNext()` in a row give (R112). -/
def seqRun : Nat → State → List SeqResult
  | 0, _ => []
  | k + 1, s => (seqNext s).2 :: seqRun k (seqNext s).1

/-! ### What a well-behaved source holds and what the sequencer delivers of it (R110, R111) -/

/-- `S[i·B : min((i+1)·B, L)]` (R110). -/
def chunkAt (b : Nat) (content : Bytes) (i : Nat) : Bytes := (content.drop (i * b)).take b

/-- The chunks of a content (R110): `ceil(L / B)` of them. -/
def chunksOf (b : Nat) (content : Bytes) : List Bytes :=
  (List.range ((content.length + b - 1) / b)).map (chunkAt b content)

/-- The well-behaved source with this content (R111). -/
def sourceOf (b : Nat) (content : Bytes) : Source := ⟨chunksOf b content, .eof⟩

/-- Chunks with the final one tagged. -/
def tagFinal : List Bytes → List (Bytes × Bool)
  | [] => []
  | [c] => [(c, true)]
  | c :: d :: rest => (c, false) :: tagFinal (d :: rest)

/-- `FRAME(S, B)` (R110), the empty content giving the one item `(ε, 1)` (D10). -/
def frame (b : Nat) (content : Bytes) : List (Bytes × Bool) :=
  if content = [] then [([], true)] else tagFinal (chunksOf b content)

end Sys2Proof.Machine
end

