-- ==== Sys2Proof/Machine/Ctr.lean ====
section
/-!
DEFINITION. CTR mode (spec/44_ctr.md R140 to R147): the two `START` rules, the keystream block, and the `PULL` step, which is
the same for both directions.
-/

namespace Sys2Proof.Machine

/-- The checks of a CTR `START` (R141): nonce and counter width configured, and together one block. -/
def ctrChecks (s : State) : Except FaultClass Unit := do
  let nonce ← configured s.nonce
  let cw ← configured s.cw
  if nonce.length + cw ≠ s.bsize then .error .configuration else .ok ()

/-- `START.CTR.ENC` after the common part (R141). -/
def ctrEncStart (s : State) : Except FaultClass State := do
  ctrChecks s
  .ok (setCtr 0 (setPhase .chaining (setKind .ctr .enc s)))

/-- `START.CTR.DEC` after the common part (R142). -/
def ctrDecStart (s : State) : Except FaultClass State := do
  ctrChecks s
  .ok (setCtr 0 (setPhase .chaining (setKind .ctr .dec s)))

/-- `KS(c) = E(CTRBLK(c))` (R143), for block size `n`. -/
def keystream (k : Collab) (n : Nat) (nonce : Bytes) (cw c : Nat) : Bytes :=
  encryptBlock k n (counterBlock nonce cw c)

/-- The registers a keystream block is made from. -/
structure CtrRegs where
  nonce : Bytes
  cw : Nat
  ctr : Nat
deriving DecidableEq, Repr

/-- `NONCE`, `CW` and `CTR` as a step reads them. -/
def ctrRegs (s : State) : Except Reg CtrRegs := do
  let nonce ← need .nonce s.nonce
  let cw ← need .cw s.cw
  let ctr ← need .ctr s.ctr
  .ok ⟨nonce, cw, ctr⟩

/-- `CTR_STEP` (R144): the leading keystream bytes (D20); `E` is called even for an empty chunk (R62). -/
def ctrStep (k : Collab) (s : State) : Result :=
  withItem s fun s c last =>
    withRegs (ctrRegs s) fun r =>
      if counterSpent r.cw r.ctr then .next (enterFault .range s)
      else
        let ks := keystream k s.bsize r.nonce r.cw r.ctr
        .next (respond (.out (bxor c (ks.take c.length)))
          (setPhase (if last then .done else s.phase)
            (setCtr (r.ctr + 1) (logCall (.encrypt (counterBlock r.nonce r.cw r.ctr)) s))))

/-- A `PULL` in a CTR session (R172): its only phase is `CHAINING` (R29). The direction is not read (R142). -/
def ctrPull (k : Collab) (s : State) : Result :=
  if s.phase ≠ .chaining then .fault .phaseNotOfSession else ctrStep k s

end Sys2Proof.Machine
end

