-- ==== Sys2Proof/Machine/FieldEngine.lean ====
section
/-!
DEFINITION. The Field Engine (spec/40_field_engine.md R90 to R104): its four operations as functions, which the AEAD steps
use too, and the four host commands. The commands read no register and write none (R102); their faults are responses
only (R197).
-/

namespace Sys2Proof.Machine

/-! ### The operations as functions -/

/-- `FE_NEW(n, v)` (R91). -/
def feNewOp (n v : Nat) : Except FaultClass Elem :=
  if 2 ^ n ≤ v then .error .range else .ok ⟨n, v⟩

/-- `FE_TOINT((n, v))` (R92). -/
def feTointOp (a : Elem) : Nat := a.v

/-- `FE_XOR(a, b)` (R93). -/
def feXorOp (a b : Elem) : Except FaultClass Elem :=
  if a.n ≠ b.n then .error .argument else .ok ⟨a.n, a.v ^^^ b.v⟩

/-- Step 1 (R95): the product's part from the multiplier bits `0 .. i-1`; the right operand selects, the left is
shifted. -/
def clProduct (a b : Nat) : Nat → Nat
  | 0 => 0
  | i + 1 => if b.testBit i then clProduct a b i ^^^ (a <<< i) else clProduct a b i

/-- Step 3 (R97): the loop over the bit positions `n+i-1` down to `n`, each tested on the current `t`; `m` is the dense
pattern. -/
def reduceBits (m n : Nat) : Nat → Nat → Nat
  | 0, t => t
  | i + 1, t => reduceBits m n i (if t.testBit (n + i) then t ^^^ (m <<< i) else t)

/-- Step 4 (R98): the invariant on bits `2n-1 .. n`, then the low `n` bits. -/
def truncateChecked (n t : Nat) : Except FaultClass Elem :=
  if t / 2 ^ n % 2 ^ n ≠ 0 then .error .internalInvariant else .ok ⟨n, t % 2 ^ n⟩

/-- `FE_MULT(a, b, Popt)` (R94): the widths first, then the polynomial, then the computation (R196). -/
def feMultOp (a b : Elem) (popt : Option ExpSet) : Except FaultClass Elem :=
  if a.n ≠ b.n then .error .argument
  else
    match selPoly a.n popt with
    | .error f => .error f
    | .ok p => truncateChecked a.n (reduceBits (dense p) a.n a.n (clProduct a.v b.v a.n))

/-! ### The host commands -/

/-- The response of a command that gives an element or a fault; nothing but the response is written (R197). -/
def answerElem (x : Except FaultClass Elem) (s : State) : State :=
  match x with
  | .ok e => respond (.elem e) s
  | .error f => respond (.fault f) s

/-- `FE.NEW n, v` (R91). -/
def execFeNew (n v : Nat) (s : State) : Result := .next (answerElem (feNewOp n v) s)

/-- `FE.TOINT a` (R92). -/
def execFeToint (a : Elem) (s : State) : Result := .next (respond (.int (feTointOp a)) s)

/-- `FE.XOR a, b` (R93). -/
def execFeXor (a b : Elem) (s : State) : Result := .next (answerElem (feXorOp a b) s)

/-- `FE.MULT a, b, P` (R94). The polynomial is the operand; the register `POLY` is not read (R35). -/
def execFeMult (a b : Elem) (p : Option ExpSet) (s : State) : Result := .next (answerElem (feMultOp a b p) s)

end Sys2Proof.Machine
end

