-- ==== Sys2Proof/Machine/Aead.lean ====
section
/-!
DEFINITION. The authenticated mode (spec/45_aead.md R150 to R167): the two `START` rules, the encrypt steps, the decrypt
steps, and the finalisation they share. The field has width `8 × B` and the polynomial `SELPOLY(8B, POLY)`.
-/

namespace Sys2Proof.Machine

/-! ### Session creation -/

/-- The checks of an AEAD `START` (R151, R152) with header length `hl`, in the order of R196: the polynomial, presence,
nonce and counter sum, half-block nonce, header length. -/
def aeadChecks (s : State) (hl : Option Nat) : Except FaultClass (Bytes × Nat × Nat) := do
  let _ ← selPoly (8 * s.bsize) s.poly
  let nonce ← configured s.nonce
  let cw ← configured s.cw
  let hlen ← configured hl
  if nonce.length + cw ≠ s.bsize then .error .configuration
  else if 2 * nonce.length ≠ s.bsize then .error .configuration
  else if s.bsize < hlen then .error .configuration
  else .ok (nonce, cw, hlen)

/-- The hash subkey `H = ELEM(E(0^B))` (R151). -/
def hashSubkey (k : Collab) (n : Nat) : Elem := elemOfBlock n (encryptBlock k n (zeroBytes n))

/-- The tag mask `EK = ELEM(E(NONCE ‖ BE(0, CW)))` (R151): counter 0 is kept for it. -/
def tagMask (k : Collab) (n : Nat) (nonce : Bytes) (cw : Nat) : Elem :=
  elemOfBlock n (encryptBlock k n (counterBlock nonce cw 0))

/-- The registers both AEAD `START`s write (R151, R152), after the two `E` calls. -/
def aeadSetup (k : Collab) (nonce : Bytes) (cw hlen : Nat) (d : Dir) (s : State) : State :=
  { s with
    mode := some .aead
    dir := some d
    phase := .start
    h := some (hashSubkey k s.bsize)
    ek := some (tagMask k s.bsize nonce cw)
    hlen := some hlen
    ctr := some 1
    blkcnt := some 0
    calls := .encrypt (counterBlock nonce cw 0) :: .encrypt (zeroBytes s.bsize) :: s.calls }

/-- `START.AEAD.ENC` after the common part (R151). -/
def aeadEncStart (k : Collab) (s : State) : Except FaultClass State := do
  let (nonce, cw, hlen) ← aeadChecks s (s.header.map List.length)
  let header ← configured s.header
  let acc ← feMultOp (elemOfBlock s.bsize (headerBlock s.bsize header)) (hashSubkey k s.bsize) s.poly
  .ok (setAcc acc (aeadSetup k nonce cw hlen .enc s))

/-- `START.AEAD.DEC` after the common part (R152): the header length comes from `HLEN_CFG` (D9), and `ACC` holds no value
until the header block is consumed. -/
def aeadDecStart (k : Collab) (s : State) : Except FaultClass State := do
  let (nonce, cw, hlen) ← aeadChecks s s.hlenCfg
  .ok (aeadSetup k nonce cw hlen .dec s)

/-! ### What the steps share -/

/-- The registers an AEAD data or tag step reads. -/
structure AeadRegs where
  nonce : Bytes
  cw : Nat
  ctr : Nat
  acc : Elem
  h : Elem
  ek : Elem
  blkcnt : Nat
  hlen : Nat
deriving DecidableEq, Repr

/-- `NONCE`, `CW`, `CTR`, `ACC`, `H`, `EK`, `BLKCNT`, `HLEN` as a step reads them. -/
def aeadRegs (s : State) : Except Reg AeadRegs := do
  let nonce ← need .nonce s.nonce
  let cw ← need .cw s.cw
  let ctr ← need .ctr s.ctr
  let acc ← need .acc s.acc
  let h ← need .h s.h
  let ek ← need .ek s.ek
  let blkcnt ← need .blkcnt s.blkcnt
  let hlen ← need .hlen s.hlen
  .ok ⟨nonce, cw, ctr, acc, h, ek, blkcnt, hlen⟩

/-- `(ACC ⊕ x) × H` with the polynomial of the session (R150). -/
def accumulate (popt : Option ExpSet) (acc x h : Elem) : Except FaultClass Elem := do
  let y ← feXorOp acc x
  feMultOp y h popt

/-- `FINALISE()` (R158): the last value of `ACC` and the tag element. -/
def finalise (popt : Option ExpSet) (n : Nat) (r : AeadRegs) : Except FaultClass (Elem × Elem) := do
  let len ← feNewOp n (lengthInt n r.hlen r.blkcnt)
  let acc ← accumulate popt r.acc len r.h
  let tag ← feXorOp acc r.ek
  .ok (acc, tag)

/-! ### Encrypt steps -/

/-- `AEAD_ENC_STEP` in `START` (R153): the header block is emitted and the sequencer is not touched (D33). -/
def aeadEncFirst (s : State) : Result :=
  withRegs (need .header s.header) fun header =>
    .next (respond (.out (headerBlock s.bsize header)) (setPhase .chaining s))

/-- `AEAD_ENC_STEP` in `CHAINING` (R157): one data block, full or a ConfigurationError; the accumulator takes the
ciphertext. -/
def aeadEncData (k : Collab) (s : State) : Result :=
  withItem s fun s c last =>
    if c.length ≠ s.bsize then .next (enterFault .configuration s)
    else
      withRegs (aeadRegs s) fun r =>
        if counterSpent r.cw r.ctr then .next (enterFault .range s)
        else
          let ct := bxor c (keystream k s.bsize r.nonce r.cw r.ctr)
          let s := logCall (.encrypt (counterBlock r.nonce r.cw r.ctr)) s
          withValue (accumulate s.poly r.acc (elemOfBlock s.bsize ct) r.h) s fun acc =>
            .next (respond (.out ct)
              (setPhase (if last then .final else s.phase)
                (setBlkcnt (r.blkcnt + 1) (setCtr (r.ctr + 1) (setAcc acc s)))))

/-- `AEAD_ENC_STEP` in `FINAL` (R159): the tag block. -/
def aeadEncTag (s : State) : Result :=
  withRegs (aeadRegs s) fun r =>
    withValue (finalise s.poly (8 * s.bsize) r) s fun (acc, tag) =>
      .next (respond (.out (blockOfElem s.bsize tag)) (setPhase .done (setAcc acc s)))

/-! ### Decrypt steps -/

/-- A ciphertext block (R161): the accumulator takes it as it came, before it is decrypted. -/
def aeadDecData (k : Collab) (s : State) (c : Bytes) : Result :=
  withRegs (aeadRegs s) fun r =>
    withValue (accumulate s.poly r.acc (elemOfBlock s.bsize c) r.h) s fun acc =>
      if counterSpent r.cw r.ctr then .next (enterFault .range s)
      else
        let pt := bxor c (keystream k s.bsize r.nonce r.cw r.ctr)
        .next (respond (.out pt)
          (setBlkcnt (r.blkcnt + 1) (setCtr (r.ctr + 1) (setAcc acc
            (logCall (.encrypt (counterBlock r.nonce r.cw r.ctr)) s)))))

/-- The tag block (R162): compared with the recomputed one; the outcome is a value and never a fault (R163). -/
def aeadDecTag (s : State) (c : Bytes) : Result :=
  withRegs (aeadRegs s) fun r =>
    withValue (finalise s.poly (8 * s.bsize) r) s fun (acc, tag) =>
      let v := verifyOf (blockOfElem s.bsize tag) c
      .next (respond (.done (some v.ok)) (setPhase .done (setVerify v (setAcc acc s))))

/-- `AEAD_DEC_STEP` in `CHAINING` (R161, R162). -/
def aeadDecChain (k : Collab) (s : State) : Result :=
  withItem s fun s c last =>
    if c.length ≠ s.bsize then .next (enterFault .configuration s)
    else if last then aeadDecTag s c
    else aeadDecData k s c

/-- `AEAD_DEC_STEP` in `START` (R160): the header block seeds `ACC`, is not emitted, and the same `PULL` goes on. -/
def aeadDecFirst (k : Collab) (s : State) : Result :=
  withItem s fun s c last =>
    if last then .next (enterFault .stream s)
    else if c.length ≠ s.bsize then .next (enterFault .configuration s)
    else
      withRegs (need .h s.h) fun h =>
        withValue (feMultOp (elemOfBlock s.bsize c) h s.poly) s fun acc =>
          aeadDecChain k (setPhase .chaining (setAcc acc s))

/-- A `PULL` in an AEAD session (R172), by direction and phase (R29). -/
def aeadPull (k : Collab) (d : Dir) (s : State) : Result :=
  match d, s.phase with
  | .enc, .start => aeadEncFirst s
  | .enc, .chaining => aeadEncData k s
  | .enc, .final => aeadEncTag s
  | .dec, .start => aeadDecFirst k s
  | .dec, .chaining => aeadDecChain k s
  | _, _ => .fault .phaseNotOfSession

end Sys2Proof.Machine
end

