-- ==== Sys2Proof/Machine/Ecb.lean ====
section
/-!
DEFINITION. ECB mode (spec/42_ecb.md R120 to R127): the two `START` rules and the two `PULL` steps. A `START` rule runs on
the state the common part of `START` leaves (R171) and gives the state of the new session or the fault it raises.
-/

namespace Sys2Proof.Machine

/-- `START.ECB.ENC` after the common part (R121): nothing to check. -/
def ecbEncStart (s : State) : Except FaultClass State :=
  .ok (setPhase .chaining (setKind .ecb .enc s))

/-- `START.ECB.DEC` after the common part (R122). -/
def ecbDecStart (s : State) : Except FaultClass State :=
  .ok (setPhase .chaining (setKind .ecb .dec s))

/-- A padded final chunk has one block or two (R125): the accepted lengths are exactly `B` and `2B`. -/
def padLengthOk (n : Nat) (p : Bytes) : Bool := decide (p.length = n) || decide (p.length = 2 * n)

/-- The final chunk of an ECB encrypt session (R123): padded, checked, each block encrypted, the first block first. -/
def ecbEncFinal (k : Collab) (s : State) (c : Bytes) : Result :=
  let p := k.padApply s.bsize c
  let s := logCall (.padApply c) s
  if padLengthOk s.bsize p = false then .next (enterFault .paddingScheme s)
  else if p.length = s.bsize then
    .next (respond (.out (encryptBlock k s.bsize p)) (setPhase .done (logCall (.encrypt p) s)))
  else
    let p1 := p.take s.bsize
    let p2 := p.drop s.bsize
    .next (respond (.out (encryptBlock k s.bsize p1 ++ encryptBlock k s.bsize p2))
      (setPhase .done (logCall (.encrypt p2) (logCall (.encrypt p1) s))))

/-- `ECB_ENC_STEP` (R123). -/
def ecbEncStep (k : Collab) (s : State) : Result :=
  withItem s fun s c last =>
    if last then ecbEncFinal k s c
    else if c.length ≠ s.bsize then .next (enterFault .blockLength s)
    else .next (respond (.out (encryptBlock k s.bsize c)) (logCall (.encrypt c) s))

/-- `ECB_DEC_STEP` (R124): `PadRemove` gets the last decrypted block alone, and its result is not checked. -/
def ecbDecStep (k : Collab) (s : State) : Result :=
  withItem s fun s c last =>
    if c.length ≠ s.bsize then .next (enterFault .blockLength s)
    else
      let p := decryptBlock k s.bsize c
      let s := logCall (.decrypt c) s
      if last then
        .next (respond (.out (k.padRemove s.bsize p)) (setPhase .done (logCall (.padRemove p) s)))
      else .next (respond (.out p) s)

/-- A `PULL` in an ECB session (R172): its only phase is `CHAINING` (R29). -/
def ecbPull (k : Collab) (d : Dir) (s : State) : Result :=
  if s.phase ≠ .chaining then .fault .phaseNotOfSession
  else
    match d with
    | .enc => ecbEncStep k s
    | .dec => ecbDecStep k s

end Sys2Proof.Machine
end

