-- ==== Sys2Proof/Machine/Cbc.lean ====
section
/-!
DEFINITION. CBC mode (spec/43_cbc.md R130 to R137): the two `START` rules and the two `PULL` steps.
-/

namespace Sys2Proof.Machine

/-- `START.CBC.ENC` after the common part (R131): the configured IV must be one block. -/
def cbcEncStart (s : State) : Except FaultClass State :=
  match s.iv with
  | none => .error .configuration
  | some iv =>
    if iv.length ≠ s.bsize then .error .configuration
    else .ok (setCv (some iv) (setPhase .start (setKind .cbc .enc s)))

/-- `START.CBC.DEC` after the common part (R132): `CV` holds no value until the first `PULL`. -/
def cbcDecStart (s : State) : Except FaultClass State :=
  .ok (setPhase .start (setKind .cbc .dec s))

/-- The final chunk of a CBC encrypt session (R133), with chaining value `cv`: one padded block, or two of which the second
is chained on the result of the first; both are one output element (D15). -/
def cbcEncFinal (k : Collab) (cv : Bytes) (s : State) (c : Bytes) : Result :=
  let p := k.padApply s.bsize c
  let s := logCall (.padApply c) s
  if padLengthOk s.bsize p = false then .next (enterFault .paddingScheme s)
  else
    let x1 := bxor (p.take s.bsize) cv
    let c1 := encryptBlock k s.bsize x1
    let s := logCall (.encrypt x1) s
    if p.length = s.bsize then .next (respond (.out c1) (setPhase .done (setCv none s)))
    else
      let x2 := bxor (p.drop s.bsize) c1
      let c2 := encryptBlock k s.bsize x2
      .next (respond (.out (c1 ++ c2)) (setPhase .done (setCv none (logCall (.encrypt x2) s))))

/-- `CBC_ENC_STEP` in `CHAINING` (R133). -/
def cbcEncChain (k : Collab) (s : State) : Result :=
  withItem s fun s c last =>
    withRegs (need .cv s.cv) fun cv =>
      if last then cbcEncFinal k cv s c
      else if c.length ≠ s.bsize then .next (enterFault .blockLength s)
      else
        let x := bxor c cv
        let y := encryptBlock k s.bsize x
        .next (respond (.out y) (setCv (some y) (logCall (.encrypt x) s)))

/-- `CBC_ENC_STEP` in `START` (R133): the IV is emitted and the sequencer is not touched (D33). -/
def cbcEncFirst (s : State) : Result :=
  withRegs (need .cv s.cv) fun cv => .next (respond (.out cv) (setPhase .chaining s))

/-- `CBC_DEC_STEP` in `CHAINING` (R134). -/
def cbcDecChain (k : Collab) (s : State) : Result :=
  withItem s fun s c last =>
    if c.length ≠ s.bsize then .next (enterFault .blockLength s)
    else
      withRegs (need .cv s.cv) fun cv =>
        let p := bxor (decryptBlock k s.bsize c) cv
        let s := logCall (.decrypt c) s
        if last then
          .next (respond (.out (k.padRemove s.bsize p))
            (setPhase .done (setCv none (logCall (.padRemove p) s))))
        else .next (respond (.out p) (setCv (some c) s))

/-- `CBC_DEC_STEP` in `START` (R134): the first item is the IV, and the same `PULL` goes on to the first ciphertext
block. -/
def cbcDecFirst (k : Collab) (s : State) : Result :=
  withItem s fun s c last =>
    if last = true ∨ c.length ≠ s.bsize then .next (enterFault .stream s)
    else cbcDecChain k (setPhase .chaining (setCv (some c) s))

/-- A `PULL` in a CBC session (R172): its phases are `START` and `CHAINING` (R29). -/
def cbcPull (k : Collab) (d : Dir) (s : State) : Result :=
  match d, s.phase with
  | .enc, .start => cbcEncFirst s
  | .enc, .chaining => cbcEncChain k s
  | .dec, .start => cbcDecFirst k s
  | .dec, .chaining => cbcDecChain k s
  | _, _ => .fault .phaseNotOfSession

end Sys2Proof.Machine
end

