-- ==== Sys2Proof/Machine/Session.lean ====
section
/-!
DEFINITION. The session commands (spec/46_session_commands.md R170 to R174): the common part of `START` and the eight
`START` commands, `PULL` with its dispatch, and `ABANDON`.
-/

namespace Sys2Proof.Machine

/-! ### `START` (R171) -/

/-- `START` for a mode and direction (R171): whatever session there is is discarded, then the mode's rule runs; a fault it
raises enters `FAULTED` with the mode and direction of the command word. -/
def startSession (m : Mode) (d : Dir) (rule : State → Except FaultClass State) (s : State) : State :=
  match rule (clearSession s) with
  | .ok t => respond .ok t
  | .error f => enterFault f (setKind m d (clearSession s))

/-- `START.ECB.ENC` (R121, R171). -/
def execStartEcbEnc (s : State) : Result := .next (startSession .ecb .enc ecbEncStart s)

/-- `START.ECB.DEC` (R122, R171). -/
def execStartEcbDec (s : State) : Result := .next (startSession .ecb .dec ecbDecStart s)

/-- `START.CBC.ENC` (R131, R171). -/
def execStartCbcEnc (s : State) : Result := .next (startSession .cbc .enc cbcEncStart s)

/-- `START.CBC.DEC` (R132, R171). -/
def execStartCbcDec (s : State) : Result := .next (startSession .cbc .dec cbcDecStart s)

/-- `START.CTR.ENC` (R141, R171). -/
def execStartCtrEnc (s : State) : Result := .next (startSession .ctr .enc ctrEncStart s)

/-- `START.CTR.DEC` (R142, R171). -/
def execStartCtrDec (s : State) : Result := .next (startSession .ctr .dec ctrDecStart s)

/-- `START.AEAD.ENC` (R151, R171). -/
def execStartAeadEnc (s : State) : Result :=
  .next (startSession .aead .enc (aeadEncStart Config.collab) s)

/-- `START.AEAD.DEC` (R152, R171). -/
def execStartAeadDec (s : State) : Result :=
  .next (startSession .aead .dec (aeadDecStart Config.collab) s)

/-! ### `PULL` (R172) -/

/-- The step of `(MODE, DIR)` (R172). -/
def sessionPull (k : Collab) (s : State) : Result :=
  match s.mode, s.dir with
  | some .ecb, some d => ecbPull k d s
  | some .cbc, some d => cbcPull k d s
  | some .ctr, some _ => ctrPull k s
  | some .aead, some d => aeadPull k d s
  | _, _ => .fault .noSessionKind

/-- The outcome `Done` carries (R172): `VERIFY.OK` for AEAD decrypt, nothing else. -/
def doneVerify (s : State) : Option Bool :=
  if s.mode = some .aead ∧ s.dir = some .dec then some s.verify.ok else none

/-- `PULL` with the collaborators `k` (R172). -/
def pullWith (k : Collab) (s : State) : Result :=
  match s.phase with
  | .idle => .next (reject s)
  | .done => .next (respond (.done (doneVerify s)) s)
  | .faulted =>
    match s.fault with
    | some x => .next (respond (.fault x) s)
    | none => .fault .faultedWithoutCode
  | .start | .chaining | .final => sessionPull k s

/-- `PULL` (R172). -/
def execPull (s : State) : Result := pullWith Config.collab s

/-! ### `ABANDON` (R173) -/

/-- `ABANDON` (R173): legal in every phase; the configuration registers stay. -/
def execAbandon (s : State) : Result := .next (respond .ok (clearSession s))

end Sys2Proof.Machine
end

