-- ==== Sys2Proof/Machine/Dispatch.lean ====
section
/-!
DEFINITION. The meaning of every instruction: one arm for each constructor of Instr.
-/

namespace Sys2Proof.Machine

def exec (i : Instr) (s : State) : Host.Outcome State Fault Refusal :=
  match i with
  | .feNew n v => Sys2Proof.Machine.execFeNew n v s
  | .feToint a => Sys2Proof.Machine.execFeToint a s
  | .feXor a b => Sys2Proof.Machine.execFeXor a b s
  | .feMult a b p => Sys2Proof.Machine.execFeMult a b p s
  | .seqNext => Sys2Proof.Machine.execSeqNext s
  | .startEcbEnc => Sys2Proof.Machine.execStartEcbEnc s
  | .startEcbDec => Sys2Proof.Machine.execStartEcbDec s
  | .startCbcEnc => Sys2Proof.Machine.execStartCbcEnc s
  | .startCbcDec => Sys2Proof.Machine.execStartCbcDec s
  | .startCtrEnc => Sys2Proof.Machine.execStartCtrEnc s
  | .startCtrDec => Sys2Proof.Machine.execStartCtrDec s
  | .startAeadEnc => Sys2Proof.Machine.execStartAeadEnc s
  | .startAeadDec => Sys2Proof.Machine.execStartAeadDec s
  | .pull => Sys2Proof.Machine.execPull s
  | .abandon => Sys2Proof.Machine.execAbandon s
  | .cfgWr r x => Sys2Proof.Machine.execCfgWr r x s
  | .regRd r => Sys2Proof.Machine.execRegRd r s

end Sys2Proof.Machine
end

