-- ==== Sys2Proof/Machine/HostPort.lean ====
section
/-!
DEFINITION. Running one command of the `HOST` port (spec/46_session_commands.md R170; spec/20_memory.md R58): taking it,
decoding it, and answering a reserved word (spec/30_encoding.md R82). Step.lean only calls this.
-/

namespace Sys2Proof.Machine

/-- What the machine does with one issued command, taken from the port: a reserved word is answered `Rejected` (R82) and
a command whose operands "cannot be expressed" (R80) has no meaning (log 5). -/
def runCommand (c : Command) (s : State) : Result :=
  match decode c with
  | .ok i => exec i s
  | .error .illTypedOperands => .refused .operandsInexpressible
  | .error .reservedOp | .error .reservedMode | .error .strayModeOrDir | .error .strayReg
  | .error .unknownRegister => .next (reject s)

/-- One step: the oldest command not yet run is run to its end (R58); with no command issued nothing happens (R195). -/
def stepHost (s : State) : Result :=
  match s.pending with
  | [] => .next s
  | c :: rest => runCommand c { s with pending := rest }

/-- The state with this command issued before all others. -/
def issueFirst (c : Command) (s : State) : State := { s with pending := c :: s.pending }

end Sys2Proof.Machine
end

