-- ==== Sys2Proof/Machine/Step.lean ====
section
/-!
DEFINITION. One step of the machine, and the placing of a bare command word before it.
-/

namespace Sys2Proof.Machine

/-- One step of the machine: one host command is one atomic step (spec/00_scope.md R7, spec/20_memory.md R55). -/
def step (s : State) : Host.Outcome State Fault Refusal := stepHost s

/-- `s` with the command of the bare word `w` issued as the next one, so that `step` runs exactly it. FME fetches no
instructions (spec/10_state.md R39): the host issues them (log 6); the word's operands are its row's least (log 5). -/
def State.withFetchWord (s : State) (_nbits w : Nat) : State :=
  issueFirst (bareCommand (BitVec.ofNat 16 w)) s

end Sys2Proof.Machine
end

