-- ==== Sys2Proof/Machine/Pseudo.lean ====
section
/-!
DEFINITION. The pseudo-instructions `ENCRYPT <mode>` and `DECRYPT <mode>` (spec/30_encoding.md R85,
spec/46_session_commands.md R180): one `START`, then `PULL` until `Done` or a fault. They are written for any
collaborators, so that a claim about whole streams can name what it needs of them (spec/70 R219, R220).
-/

namespace Sys2Proof.Machine

/-- The instruction `START.<MODE>.<DIR>` (R79). -/
def startInstr : Mode → Dir → Instr
  | .ecb, .enc => .startEcbEnc
  | .ecb, .dec => .startEcbDec
  | .cbc, .enc => .startCbcEnc
  | .cbc, .dec => .startCbcDec
  | .ctr, .enc => .startCtrEnc
  | .ctr, .dec => .startCtrDec
  | .aead, .enc => .startAeadEnc
  | .aead, .dec => .startAeadDec

/-- The `START` rule of a mode and direction, with the collaborators `k`. -/
def startRule (k : Collab) : Mode → Dir → State → Except FaultClass State
  | .ecb, .enc => ecbEncStart
  | .ecb, .dec => ecbDecStart
  | .cbc, .enc => cbcEncStart
  | .cbc, .dec => cbcDecStart
  | .ctr, .enc => ctrEncStart
  | .ctr, .dec => ctrDecStart
  | .aead, .enc => aeadEncStart k
  | .aead, .dec => aeadDecStart k

/-- `START.<MODE>.<DIR>` with the collaborators `k` (R171). -/
def startWith (k : Collab) (m : Mode) (d : Dir) (s : State) : State := startSession m d (startRule k m d) s

/-- `PULL` at most `fuel` times, until it answers something other than `Out` (R85). -/
def pullUntilEnd (k : Collab) : Nat → State → Result
  | 0, s => .next s
  | fuel + 1, s =>
    match pullWith k s with
    | .next t =>
      match t.responses.head? with
      | some (.out _) => pullUntilEnd k fuel t
      | _ => .next t
    | .fault f => .fault f
    | .refused r => .refused r

/-- The payloads of the `Out` responses of a transcript (newest first), in order (R85). -/
def outElements : List Response → List Bytes
  | [] => []
  | .out b :: rest => outElements rest ++ [b]
  | _ :: rest => outElements rest

/-- How a whole-stream run ends (R85): with `Done` and what it carries (the `verify` bit for AEAD decrypt, R81), or with
`Fault` and its class. -/
inductive StreamEnd where
  | done (verify : Option Bool)
  | fault (x : FaultClass)
deriving DecidableEq, Repr

/-- The end of a run that this response is, if it is one (R85). -/
def Response.streamEnd : Response → Option StreamEnd
  | .done v => some (.done v)
  | .fault x => some (.fault x)
  | .ok | .elem _ | .int _ | .value _ | .item _ _ | .endOfItems | .out _ | .rejected => none

/-- The result of a whole-stream run (R85): "the list of `Out` payloads in order", and how the run ended (log 23). The payloads given
before a fault stand (spec/60 R198). -/
structure StreamResult where
  elements : List Bytes
  ending : StreamEnd
deriving DecidableEq, Repr

/-- The value of a whole-stream call (R180): the concatenated payloads, and how the run ended. -/
structure StreamValue where
  out : Bytes
  ending : StreamEnd
deriving DecidableEq, Repr

/-- The payloads concatenated (R174, R180). -/
def StreamResult.value (r : StreamResult) : StreamValue := ⟨r.elements.flatten, r.ending⟩

/-- The result that a finished run's transcript (newest first) shows, or nothing where its last response ends no run. -/
def resultOf : List Response → Option StreamResult
  | [] => none
  | r :: rest => r.streamEnd.map fun e => ⟨outElements rest, e⟩

/-- How many `PULL`s a session over a source of `n` chunks takes at most (R225). -/
def pullBound (n : Nat) : Nat := n + 3

/-- `ENCRYPT <mode>` or `DECRYPT <mode>` over the source `src` (R85): `START`, then `PULL` until `Done` or `Fault`, and
what the responses give. A `START` that faults leaves `FAULTED`, where the first `PULL` answers the fault (R172).
Nothing only where the model stops. -/
def streamResult (k : Collab) (m : Mode) (d : Dir) (src : Source) (s : State) : Option StreamResult :=
  match pullUntilEnd k (pullBound src.chunks.length)
      (startWith k m d { s with sources := [src], responses := [] }) with
  | .next t => resultOf t.responses
  | .fault _ | .refused _ => none

/-- `ENCRYPT <mode>` or `DECRYPT <mode>` as a call with a value (R180). -/
def streamCall (k : Collab) (m : Mode) (d : Dir) (src : Source) (s : State) : Option StreamValue :=
  (streamResult k m d src s).map StreamResult.value

end Sys2Proof.Machine
end

