-- ==== Sys2Proof/Safety.lean ====
section
/-!
DEFINITION. What holds of every state a run passes through, in the terms the claims use: which registers hold a value in
which session and phase (spec/10_state.md R22 to R31, R37; spec/45_aead.md R166), that the byte sources obey their type
(spec/41 R111, R117), and that the issued commands can be expressed (spec/30 R80).
-/

namespace Sys2Proof.Machine

/-- No session data register holds a value. -/
def NoData (s : State) : Prop :=
  s.cv = none ∧ s.ctr = none ∧ s.acc = none ∧ s.h = none ∧ s.ek = none ∧ s.blkcnt = none ∧ s.hlen = none

/-- The AEAD registers hold no value (R24 to R27). -/
def NoAead (s : State) : Prop :=
  s.acc = none ∧ s.h = none ∧ s.ek = none ∧ s.blkcnt = none ∧ s.hlen = none

/-- `SeqNext()` has an item, `End` of the source or a source failure still to come (R113): neither the last item was
delivered nor did the source fail. -/
def ItemsLeft (s : State) : Prop := s.seq = .unprimed ∨ ∃ la, s.seq = .primed la

/-- A field element of width `8 × B`. -/
def FullElem (s : State) (x : Elem) : Prop := x.n = 8 * s.bsize ∧ x.v < 2 ^ (8 * s.bsize)

/-- `CV` holds one block (R22). -/
def OneBlock (s : State) : Option Bytes → Prop
  | some b => b.length = s.bsize
  | none => False

/-- The nonce and counter width that `START` checked, with the counter in its range (R23, R141). -/
def CounterOk (s : State) : Prop :=
  ∃ nonce cw c, s.nonce = some nonce ∧ s.cw = some cw ∧ s.ctr = some c ∧
    nonce.length + cw = s.bsize ∧ c ≤ 2 ^ (8 * cw)

/-- What the AEAD registers hold from `START` on (R24 to R27, R151, R152): `BLKCNT = CTR - 1`, `HLEN ≤ B`. -/
def AeadData (s : State) : Prop :=
  (∃ h ek, s.h = some h ∧ s.ek = some ek ∧ FullElem s h ∧ FullElem s ek) ∧
  (∃ n, s.ctr = some (n + 1) ∧ s.blkcnt = some n) ∧
  (∃ hl, s.hlen = some hl ∧ hl ≤ s.bsize)

/-- What `START.AEAD` checked, which the frozen configuration keeps (R151, R166, R222). -/
def AeadConfig (s : State) : Prop :=
  (∃ p, selPoly (8 * s.bsize) s.poly = .ok p) ∧ (∃ nonce, s.nonce = some nonce ∧ 2 * nonce.length = s.bsize)

/-- `ACC` holds an element of width `8 × B` (R24). -/
def AccOk (s : State) : Prop := ∃ a, s.acc = some a ∧ FullElem s a

/-- An ECB session in progress (R121 to R124). -/
def EcbActive (s : State) : Prop := s.phase = .chaining ∧ NoData s ∧ ItemsLeft s

/-- A CBC session in progress (R131 to R134): encrypt has its chaining value from `START` on, decrypt from the first
`PULL`. -/
def CbcActive (d : Dir) (s : State) : Prop :=
  s.ctr = none ∧ NoAead s ∧
  match d, s.phase with
  | .enc, .start => OneBlock s s.cv ∧ s.seq = .unprimed
  | .enc, .chaining => OneBlock s s.cv ∧ ItemsLeft s
  | .dec, .start => s.cv = none ∧ s.seq = .unprimed
  | .dec, .chaining => OneBlock s s.cv ∧ ItemsLeft s
  | _, _ => False

/-- A CTR session in progress (R141 to R144). -/
def CtrActive (s : State) : Prop :=
  s.phase = .chaining ∧ s.cv = none ∧ NoAead s ∧ CounterOk s ∧ ItemsLeft s

/-- An AEAD session in progress (R151 to R162). -/
def AeadActive (d : Dir) (s : State) : Prop :=
  s.cv = none ∧ CounterOk s ∧ AeadData s ∧ AeadConfig s ∧
  match d, s.phase with
  | .enc, .start => (∃ hd, s.header = some hd ∧ hd.length ≤ s.bsize) ∧ AccOk s ∧ s.seq = .unprimed
  | .enc, .chaining => AccOk s ∧ ItemsLeft s
  | .enc, .final => AccOk s ∧ s.seq = .exhausted
  | .dec, .start => s.acc = none ∧ s.seq = .unprimed
  | .dec, .chaining => AccOk s ∧ ItemsLeft s
  | _, _ => False

/-- A session in progress, of some kind (R28, R29). -/
def ActiveSession (s : State) : Prop :=
  ∃ m d, s.mode = some m ∧ s.dir = some d ∧
    match m with
    | .ecb => EcbActive s
    | .cbc => CbcActive d s
    | .ctr => CtrActive s
    | .aead => AeadActive d s

/-- A session that has ended in `DONE` (R174): what its registers still hold, and that `VERIFY` holds an outcome exactly
for AEAD decrypt (R31). -/
def EndedSession (s : State) : Prop :=
  ∃ m d, s.mode = some m ∧ s.dir = some d ∧ s.seq = .exhausted ∧
    s.verify.valid = decide (m = .aead ∧ d = .dec) ∧ (s.verify.ok = true → s.verify.valid = true) ∧
    match m with
    | .ecb => NoData s
    | .cbc => NoData s
    | .ctr => s.cv = none ∧ NoAead s ∧ ∃ c, s.ctr = some (c + 1)
    | .aead => s.cv = none ∧ AeadData s ∧ AccOk s

/-- What the registers hold, by phase (R29 to R31, R197). -/
def SessionOk (s : State) : Prop :=
  match s.phase with
  | .idle => s.mode = none ∧ s.dir = none ∧ s.fault = none ∧ s.verify = Verify.clear ∧ NoData s
  | .start | .chaining | .final => s.fault = none ∧ s.verify = Verify.clear ∧ ActiveSession s
  | .done => s.fault = none ∧ EndedSession s
  | .faulted =>
    s.fault ≠ none ∧ s.mode ≠ none ∧ s.dir ≠ none ∧ s.verify = Verify.clear ∧ NoData s

/-- The invariant of the machine. -/
structure StateInv (s : State) : Prop where
  /-- `B` is positive (R6) -/
  block : 0 < s.bsize
  /-- the attached source obeys its type (R117) -/
  source : sourceFits s = true
  /-- and so do those lined up -/
  sources : ∀ src ∈ s.sources, fitsBlock s.bsize src = true
  /-- `LA` has at most `B` bytes (R37) -/
  lookahead : ∀ la, s.seq = .primed la → la.length ≤ s.bsize
  /-- `POLY` is `NONE` or a set (R35) -/
  poly : polyWf s.poly = true
  /-- the issued commands can be expressed (R80) -/
  commands : ∀ c ∈ s.pending, decode c ≠ .error .illTypedOperands
  /-- the session registers, by phase -/
  session : SessionOk s

/-! ### Further words of the claims -/

/-- The state of a session just created with no data register, in a given phase (R171, R212): what every `START` leaves
unless it faults or its mode writes data registers. -/
def sessionCreated (m : Mode) (d : Dir) (p : Phase) (s : State) : State :=
  { s with
    mode := some m
    dir := some d
    phase := p
    fault := none
    verify := ⟨false, false⟩
    cv := none
    ctr := none
    acc := none
    h := none
    ek := none
    blkcnt := none
    hlen := none
    seq := .unprimed
    src := s.sources.head?
    sources := s.sources.tail
    responses := .ok :: s.responses }

/-- The state after a `START` that faults (R171, R197): `MODE` and `DIR` of the command word, `VERIFY = 0b00`. -/
def sessionRefused (m : Mode) (d : Dir) (x : FaultClass) (s : State) : State :=
  { sessionCreated m d .faulted s with fault := some x, responses := .fault x :: s.responses }

/-- The state after a `PULL` step that faults, from the state its port calls left (R197). -/
def sessionFaulted (x : FaultClass) (s : State) : State :=
  { s with
    phase := .faulted
    fault := some x
    cv := none
    ctr := none
    acc := none
    h := none
    ek := none
    blkcnt := none
    hlen := none
    responses := .fault x :: s.responses }

/-- The `START` commands. -/
def startsSession : Instr → Option (Mode × Dir)
  | .startEcbEnc => some (.ecb, .enc)
  | .startEcbDec => some (.ecb, .dec)
  | .startCbcEnc => some (.cbc, .enc)
  | .startCbcDec => some (.cbc, .dec)
  | .startCtrEnc => some (.ctr, .enc)
  | .startCtrDec => some (.ctr, .dec)
  | .startAeadEnc => some (.aead, .enc)
  | .startAeadDec => some (.aead, .dec)
  | .feNew _ _ | .feToint _ | .feXor _ _ | .feMult _ _ _ | .seqNext | .pull | .abandon | .cfgWr _ _ | .regRd _ => none

end Sys2Proof.Machine
end

