-- ==== Sys2Proof/Certificates/Slice0/Obligations.lean ====
section
/-!
DEFINITION. The statements about FME. Each one's docstring names the rule of spec/ it formalises.
-/

open Sys2Proof Sys2Proof.Machine

/-! ### Words of the statements -/

/-- The polynomial a bit vector stands for (spec/30 R65): `Σ v[i]·x^i` over GF(2). -/
noncomputable def Sys2Proof.Claims.bitPoly (v : Nat) : Polynomial (ZMod 2) :=
  ∑ i ∈ Finset.range v.size, if v.testBit i then Polynomial.X ^ i else 0

/-- The polynomial an exponent set stands for (spec/30 R67). -/
noncomputable def Sys2Proof.Claims.expPoly (p : ExpSet) : Polynomial (ZMod 2) :=
  ∑ e ∈ p.toFinset, Polynomial.X ^ e

/-- The register numbers of spec/10 R41. -/
def Sys2Proof.Claims.isRegNumber (k : Nat) : Prop := k ≤ 0x06 ∨ (0x10 ≤ k ∧ k ≤ 0x1B) ∨ k = 0x20 ∨ k = 0x21

/-- The reserved words of spec/30 R82, on the fields of R77 read as numbers. -/
def Sys2Proof.Claims.reservedWord (w : CmdWord) : Prop :=
  let op := w.toNat % 16
  let mode := w.toNat / 16 % 8
  let dir := w.toNat / 128 % 2
  let reg := w.toNat / 256
  op = 0x0 ∨ 0xB ≤ op ∨
  (op = 0x6 ∧ 4 ≤ mode) ∨ (op = 0x6 ∧ reg ≠ 0) ∨
  (op ≠ 0x6 ∧ (mode ≠ 0 ∨ dir ≠ 0)) ∨
  (op ≠ 0x9 ∧ op ≠ 0xA ∧ reg ≠ 0) ∨
  ((op = 0x9 ∨ op = 0xA) ∧ ¬ Sys2Proof.Claims.isRegNumber reg)

/-- A padding scheme that is last-block local (spec/42 R126, spec/70 R219), for block size `n`. -/
def Sys2Proof.Claims.LastBlockLocal (k : Collab) (n : Nat) : Prop :=
  ∀ c : Bytes, c.length ≤ n →
    ((k.padApply n c).length = n ∧ k.padRemove n (k.padApply n c) = c) ∨
    ((k.padApply n c).length = 2 * n ∧
      (k.padApply n c).take n ++ k.padRemove n ((k.padApply n c).drop n) = c)

/-- `D` undoes `E` on blocks of `n` bytes (spec/70 R220). -/
def Sys2Proof.Claims.Inverts (k : Collab) (n : Nat) : Prop := ∀ b : Block n, k.D n (k.E n b) = b

open Sys2Proof.Claims

/-! ### Encoding -/

/-- spec/30 Part 2: the decoder reads back every well-formed instruction from its encoding, every operand included. -/
def Obligations.EncodeThenDecodeGivesTheInstruction : Prop :=
  ∀ i : Instr, i.wf = true → decode (encode i) = .ok i

/-- spec/30 R77 to R80: a command that decodes has one encoding, the command itself, and gives a well-formed
instruction. -/
def Obligations.DecodedCommandIsTheEncodingOfItsInstruction : Prop :=
  ∀ (c : Command) (i : Instr), decode c = .ok i → i.wf = true ∧ encode i = c

/-- spec/30 R77 to R79, R41: words written out bit by bit from the fields `REG`, `DIR`, `MODE`, `OP`. -/
def Obligations.WordsWrittenFromTheSpecDecode : Prop :=
  decode ⟨0b00000000_0_000_0001#16, [.int 8, .int 0x57]⟩ = .ok (.feNew 8 0x57) ∧
  decode ⟨0b00000000_0_000_0100#16, [.elem ⟨8, 2⟩, .elem ⟨8, 3⟩, .poly (some [8, 4, 3, 1, 0])]⟩
    = .ok (.feMult ⟨8, 2⟩ ⟨8, 3⟩ (some [8, 4, 3, 1, 0])) ∧
  decode ⟨0b00000000_0_000_0101#16, []⟩ = .ok .seqNext ∧
  decode ⟨0b00000000_1_001_0110#16, []⟩ = .ok .startCbcDec ∧
  decode ⟨0b00000000_0_011_0110#16, []⟩ = .ok .startAeadEnc ∧
  decode ⟨0b00000000_0_000_0111#16, []⟩ = .ok .pull ∧
  decode ⟨0b00000010_0_000_1001#16, [.int 2]⟩ = .ok (.cfgWr .cw (.int 2)) ∧
  decode ⟨0b00100001_0_000_1010#16, []⟩ = .ok (.regRd .la)

/-- spec/30 R82: a word is refused by the decoder exactly when it is on R82's list; such a command is answered `Rejected`
and changes no state beyond being taken; and no word matches two rows of the opcode table. -/
def Obligations.ReservedWordsAreExactlyThoseListed : Prop :=
  (∀ w : CmdWord, (∃ e, decodeWord w = .error e) ↔ reservedWord w) ∧
  (∀ (w : CmdWord) (ops : List Value) (rest : List Command) (s : State), reservedWord w →
    s.pending = ⟨w, ops⟩ :: rest →
    step s = .next { s with pending := rest, responses := .rejected :: s.responses }) ∧
  (∀ (w : CmdWord) (a b : TableRow), a ∈ opcodeTable → b ∈ opcodeTable →
    a.matchesWord w = true → b.matchesWord w = true → a = b)

/-- spec/20 R55, R58: a step takes the oldest command issued and runs the instruction it decodes to, and nothing else. That
issued commands wait in a queue, and that a step with none issued changes nothing, is the model's choice (log 6). -/
def Obligations.StepRunsTheDecodedInstruction : Prop :=
  (∀ (s : State) (c : Command) (rest : List Command) (i : Instr),
    s.pending = c :: rest → decode c = .ok i → step s = exec i { s with pending := rest }) ∧
  (∀ s : State, s.pending = [] → step s = .next s)

/-! ### Reset -/

/-- spec/70 R211: the state after reset, register by register. -/
def Obligations.ResetLeavesTheTableOfR211 : Prop :=
  State.reset.phase = .idle ∧ State.reset.fault = none ∧ State.reset.verify = ⟨false, false⟩ ∧
  State.reset.seq = .unprimed ∧ State.reset.seq.la = none ∧
  State.reset.mode = none ∧ State.reset.dir = none ∧
  State.reset.cv = none ∧ State.reset.ctr = none ∧ State.reset.acc = none ∧ State.reset.h = none ∧
  State.reset.ek = none ∧ State.reset.blkcnt = none ∧ State.reset.hlen = none ∧
  State.reset.bsize = Config.blockSize ∧
  State.reset.nonce = none ∧ State.reset.cw = none ∧ State.reset.iv = none ∧ State.reset.header = none ∧
  State.reset.hlenCfg = none ∧ State.reset.poly = none

/-! ### Field Engine -/

/-- spec/40 R91: `FE.NEW n, v`, word `0x0001`. -/
def Obligations.FeNewBuildsTheElementOrRangeError : Prop :=
  (∀ n v : Nat, 1 ≤ n → decode ⟨0x0001#16, [.int n, .int v]⟩ = .ok (.feNew n v)) ∧
  (∀ (n v : Nat) (s : State),
    exec (.feNew n v) s =
      .next { s with responses := (if v < 2 ^ n then .elem ⟨n, v⟩ else .fault .range) :: s.responses })

/-- spec/40 R92: `FE.TOINT a`, which undoes `FE.NEW`. -/
def Obligations.FeTointGivesTheInteger : Prop :=
  (∀ (a : Elem) (s : State), exec (.feToint a) s = .next { s with responses := .int a.v :: s.responses }) ∧
  (∀ (n v : Nat) (x : Elem) (s t : State),
    exec (.feNew n v) s = .next t → t.responses = .elem x :: s.responses →
    exec (.feToint x) t = .next { t with responses := .int v :: t.responses })

/-- spec/40 R93: `FE.XOR a, b`, word `0x0003`, with the laws the source states. (That the zero element is the identity is
an inference of the spec and stands with the corner cases.) -/
def Obligations.FeXorAddsOrArgumentError : Prop :=
  (∀ a b : Elem, a.wf = true → b.wf = true → decode ⟨0x0003#16, [.elem a, .elem b]⟩ = .ok (.feXor a b)) ∧
  (∀ (a b : Elem) (s : State),
    exec (.feXor a b) s =
      .next { s with
        responses := (if a.n = b.n then .elem ⟨a.n, a.v ^^^ b.v⟩ else .fault .argument) :: s.responses }) ∧
  (∀ a b : Elem, a.wf = true → b.wf = true → a.n = b.n → a.v ^^^ b.v < 2 ^ a.n) ∧
  (∀ (a b : Elem) (s : State), a.n = b.n → exec (.feXor a b) s = exec (.feXor b a) s) ∧
  (∀ (a b c : Elem) (s : State), a.n = b.n → b.n = c.n →
    exec (.feXor ⟨a.n, a.v ^^^ b.v⟩ c) s = exec (.feXor a ⟨b.n, b.v ^^^ c.v⟩) s) ∧
  (∀ (a : Elem) (s : State), exec (.feXor a a) s = .next { s with responses := .elem ⟨a.n, 0⟩ :: s.responses })

/-- spec/40 R90: `SELPOLY`: a supplied polynomial at any width, else the designated one (spec/30 R68), with highest exponent
equal to the width, else a ConfigurationError. -/
def Obligations.SelpolyChoosesThePolynomial : Prop :=
  (∀ (n : Nat) (p : ExpSet),
    selPoly n (some p) = if n ∈ p ∧ (∀ e ∈ p, e ≤ n) then .ok p else .error .configuration) ∧
  (∀ n : Nat, n ∉ [8, 64, 128, 256, 512] → selPoly n none = .error .configuration) ∧
  selPoly 8 none = .ok [8, 4, 3, 1, 0] ∧ selPoly 64 none = .ok [64, 4, 3, 1, 0] ∧
  selPoly 128 none = .ok [128, 7, 2, 1, 0] ∧ selPoly 256 none = .ok [256, 10, 5, 2, 0] ∧
  selPoly 512 none = .ok [512, 8, 5, 2, 0]

/-- spec/40 R94, R196: where `FE.MULT` faults: the widths are tested before the polynomial. -/
def Obligations.FeMultFaultsInOrder : Prop :=
  (∀ (a b : Elem) (p : Option ExpSet) (s : State), a.n ≠ b.n →
    exec (.feMult a b p) s = .next { s with responses := .fault .argument :: s.responses }) ∧
  (∀ (a b : Elem) (p : Option ExpSet) (s : State), a.n = b.n → selPoly a.n p = .error .configuration →
    exec (.feMult a b p) s = .next { s with responses := .fault .configuration :: s.responses })

/-- spec/40 R94 to R97, R65: with elements of one width `n` and a polynomial `P` of degree `n`, `FE.MULT` answers the
element of width `n` that is the product of the two polynomials over GF(2) reduced modulo `P`. -/
def Obligations.FeMultIsTheProductModuloThePolynomial : Prop :=
  ∀ (a b : Elem) (popt : Option ExpSet) (p : ExpSet) (s : State),
    a.wf = true → b.wf = true → a.n = b.n → selPoly a.n popt = .ok p →
    ∃ r q, exec (.feMult a b popt) s = .next { s with responses := .elem ⟨a.n, r⟩ :: s.responses } ∧
      r < 2 ^ a.n ∧ bitPoly a.v * bitPoly b.v = q * expPoly p + bitPoly r

/-- spec/40 R94, R97: the check of step 4 cannot fail, whatever the operands. (R98 marks this as an inference from R97.) -/
def Obligations.FeMultNeverViolatesItsInvariant : Prop :=
  ∀ (a b : Elem) (p : Option ExpSet) (s t : State), exec (.feMult a b p) s = .next t →
    t.responses ≠ .fault .internalInvariant :: s.responses

/-- spec/40 R94: `a.mult(b) == b.mult(a)`, for elements of any widths and any polynomial, faults included. (R100 has it from
the source for the five widths; for any polynomial it is an inference of the spec.) -/
def Obligations.FeMultCommutes : Prop :=
  ∀ (a b : Elem) (p : Option ExpSet) (s : State), a.wf = true → b.wf = true →
    exec (.feMult a b p) s = exec (.feMult b a p) s

/-- spec/40 R93, R94: the corner cases of `FE.MULT`, for any polynomial the width accepts, and the zero element as the identity
of `FE.XOR`. (R99 and the clause of R93 are marked as inferences of the spec.) -/
def Obligations.FieldEngineCornerCases : Prop :=
  (∀ (a : Elem) (s : State),
    exec (.feXor a ⟨a.n, 0⟩) s = .next { s with responses := .elem a :: s.responses }) ∧
  ∀ (a : Elem) (popt : Option ExpSet) (p : ExpSet) (s : State), a.wf = true → selPoly a.n popt = .ok p →
    exec (.feMult a ⟨a.n, 0⟩ popt) s = .next { s with responses := .elem ⟨a.n, 0⟩ :: s.responses } ∧
    exec (.feMult ⟨a.n, 0⟩ a popt) s = .next { s with responses := .elem ⟨a.n, 0⟩ :: s.responses } ∧
    exec (.feMult a ⟨a.n, 1⟩ popt) s = .next { s with responses := .elem a :: s.responses } ∧
    (2 ≤ a.n →
      exec (.feMult ⟨a.n, 2 ^ (a.n - 1)⟩ ⟨a.n, 2⟩ popt) s =
        .next { s with responses := .elem ⟨a.n, dense p - 2 ^ a.n⟩ :: s.responses })

/-- spec/40 R102: the answer of a Field Engine command is a function of its operands alone, it is given in every phase, and
nothing but the transcript changes. -/
def Obligations.FieldEngineIsPure : Prop :=
  ∀ i : Instr, (∃ n v, i = .feNew n v) ∨ (∃ a, i = .feToint a) ∨ (∃ a b, i = .feXor a b) ∨
      (∃ a b p, i = .feMult a b p) →
    ∃ r : Response, ∀ s : State, exec i s = .next { s with responses := r :: s.responses }

/-! ### Block Sequencer -/

/-- spec/41 R118: `SEQ.NEXT`, word `0x0005`, is rejected outside `IDLE`; in `IDLE` it answers what `SeqNext()` gives, and a
StreamError leaves `PHASE` and `FAULT` as they were. (For a source that breaks the type of `SrcNext()` see
`StopsOnWhatTheTypesExclude`.) -/
def Obligations.SeqNextCommandAnswersTheItem : Prop :=
  decode ⟨0x0005#16, []⟩ = .ok .seqNext ∧
  (∀ s : State, s.phase ≠ .idle →
    exec .seqNext s = .next { s with responses := .rejected :: s.responses }) ∧
  (∀ s : State, s.phase = .idle → sourceFits s = true →
    ∃ q src d l r, seqNext s = ({ s with seq := q, src := src, drawn := d, calls := l }, r) ∧
      exec .seqNext s =
        .next { s with
          seq := q
          src := src
          drawn := d
          calls := l
          responses :=
            (match r with
              | .item c last => .item c last
              | .finished => .endOfItems
              | .failed => .fault .stream) :: s.responses })

/-- spec/41 R112: `SeqNext()`, case by case, with the attached source written as the answers it has still to give. -/
def Obligations.SeqNextFollowsR112 : Prop :=
  ∀ s : State,
    let after (u : List PortCall) (left : Source) (q : Sequencer) : State :=
      { s with
        seq := q
        src := some left
        drawn := if s.src = none then s.drawn + 1 else s.drawn
        calls := u ++ s.calls }
    (s.seq = .unprimed → ∀ e, attachedSource s = ⟨[], e⟩ →
      seqNext s =
        match e with
        | .eof => (after [.srcNext .eof] ⟨[], e⟩ .exhausted, .item [] true)
        | .failure => (after [.srcNext .failure] ⟨[], e⟩ .failed, .failed)) ∧
    (s.seq = .unprimed → ∀ c e, attachedSource s = ⟨[c], e⟩ →
      seqNext s =
        match e with
        | .eof => (after [.srcNext .eof, .srcNext (.chunk c)] ⟨[], e⟩ .exhausted, .item c true)
        | .failure => (after [.srcNext .failure, .srcNext (.chunk c)] ⟨[], e⟩ .failed, .failed)) ∧
    (s.seq = .unprimed → ∀ c d rest e, attachedSource s = ⟨c :: d :: rest, e⟩ →
      seqNext s =
        (after [.srcNext (.chunk d), .srcNext (.chunk c)] ⟨rest, e⟩ (.primed d), .item c false)) ∧
    (∀ la, s.seq = .primed la → ∀ e, attachedSource s = ⟨[], e⟩ →
      seqNext s =
        match e with
        | .eof => (after [.srcNext .eof] ⟨[], e⟩ .exhausted, .item la true)
        | .failure => (after [.srcNext .failure] ⟨[], e⟩ .failed, .failed)) ∧
    (∀ la, s.seq = .primed la → ∀ d rest e, attachedSource s = ⟨d :: rest, e⟩ →
      seqNext s = (after [.srcNext (.chunk d)] ⟨rest, e⟩ (.primed d), .item la false)) ∧
    (s.seq = .exhausted → seqNext s = (s, .finished)) ∧
    (s.seq = .failed → seqNext s = (s, .failed))

/-- spec/41 R110 to R112 (R112 marks it as an inference): over a source obeying R111, successive calls of `SeqNext()` give exactly the items of
`FRAME(S, B)`, then `End` for ever. -/
def Obligations.SequencerDeliversTheFrame : Prop :=
  ∀ (s : State) (content : Bytes) (k : Nat), 0 < s.bsize → s.seq = .unprimed →
    attachedSource s = sourceOf s.bsize content →
    seqRun ((frame s.bsize content).length + k) s =
      (frame s.bsize content).map (fun x => .item x.1 x.2) ++ List.replicate k .finished

/-- spec/41 R110: `FRAME(S, B)` cuts the content and nothing else, in chunks of exactly `B` bytes but for the last, which
alone is tagged, is not empty unless the content is, and is at most one block; there are `max(1, ceil(L / B))` items. -/
def Obligations.FrameCutsTheContent : Prop :=
  ∀ (b : Nat) (content : Bytes), 0 < b →
    ((frame b content).map Prod.fst).flatten = content ∧
    (∃ items c, frame b content = items ++ [(c, true)] ∧ c.length ≤ b ∧ (c = [] → content = []) ∧
      ∀ x ∈ items, x.2 = false ∧ x.1.length = b) ∧
    (frame b content).length = max 1 ((content.length + b - 1) / b)

/-- spec/41 R112 (R114 marks it as an inference): a source that fails after its chunks suppresses the last of them: the items before it are delivered,
none of them tagged last, and then every call is a StreamError. -/
def Obligations.FailingSourceSurfacesOneItemEarly : Prop :=
  ∀ (s : State) (chunks : List Bytes) (k : Nat), s.seq = .unprimed → attachedSource s = ⟨chunks, .failure⟩ →
    seqRun (chunks.dropLast.length + k) s =
      chunks.dropLast.map (fun c => .item c false) ++ List.replicate k .failed

/-! ### START and ABANDON

Which source a new session gets is outside the spec (R119); that it is the next one lined up, `s.sources`, is the model's
choice (log 4). -/

/-- spec/42 R121, R122; spec/46 R171: `START.ECB.ENC` and `START.ECB.DEC`, from every state. -/
def Obligations.StartEcbOpensTheSession : Prop :=
  ∀ s : State,
    exec .startEcbEnc s = .next (sessionCreated .ecb .enc .chaining s) ∧
    exec .startEcbDec s = .next (sessionCreated .ecb .dec .chaining s)

/-- spec/43 R131; spec/46 R171: `START.CBC.ENC` with an IV of one block, and the ConfigurationError otherwise. -/
def Obligations.StartCbcEncLoadsTheIv : Prop :=
  (∀ (s : State) (iv : Bytes), s.iv = some iv → iv.length = s.bsize →
    exec .startCbcEnc s = .next { sessionCreated .cbc .enc .start s with cv := some iv }) ∧
  (∀ s : State, (∀ iv, s.iv = some iv → iv.length ≠ s.bsize) →
    exec .startCbcEnc s = .next (sessionRefused .cbc .enc .configuration s))

/-- spec/43 R132; spec/46 R171: `START.CBC.DEC`, from every state; `CV` holds no value. -/
def Obligations.StartCbcDecOpensTheSession : Prop :=
  ∀ s : State, exec .startCbcDec s = .next (sessionCreated .cbc .dec .start s)

/-- spec/44 R141, R142; spec/46 R171: the CTR `START`s when nonce and counter width make one block, and the
ConfigurationError otherwise. -/
def Obligations.StartCtrZeroesTheCounter : Prop :=
  (∀ (s : State) (nonce : Bytes) (cw : Nat), s.nonce = some nonce → s.cw = some cw → nonce.length + cw = s.bsize →
    exec .startCtrEnc s = .next { sessionCreated .ctr .enc .chaining s with ctr := some 0 } ∧
    exec .startCtrDec s = .next { sessionCreated .ctr .dec .chaining s with ctr := some 0 }) ∧
  (∀ s : State, (∀ nonce cw, s.nonce = some nonce → s.cw = some cw → nonce.length + cw ≠ s.bsize) →
    exec .startCtrEnc s = .next (sessionRefused .ctr .enc .configuration s) ∧
    exec .startCtrDec s = .next (sessionRefused .ctr .dec .configuration s))

/-- spec/45 R151; spec/46 R171: `START.AEAD.ENC` when its checks pass, with every register it writes, and the
ConfigurationError when one does not. -/
def Obligations.StartAeadEncSetsUpTheSession : Prop :=
  (∀ (s : State) (nonce header : Bytes) (cw : Nat) (p : ExpSet),
    selPoly (8 * s.bsize) s.poly = .ok p → s.nonce = some nonce → s.cw = some cw → s.header = some header →
    nonce.length + cw = s.bsize → 2 * nonce.length = s.bsize → header.length ≤ s.bsize →
    ∃ acc : Elem,
      let zero : Bytes := List.replicate s.bsize 0
      let hk : Elem := ⟨8 * s.bsize, intOf (encryptBlock Config.collab s.bsize zero)⟩
      let mask : Elem := ⟨8 * s.bsize, intOf (encryptBlock Config.collab s.bsize (nonce ++ beBytes 0 cw))⟩
      feMultOp ⟨8 * s.bsize, intOf (beBytes (intOf header) s.bsize)⟩ hk s.poly = .ok acc ∧
      exec .startAeadEnc s =
        .next { sessionCreated .aead .enc .start s with
          h := some hk
          ek := some mask
          hlen := some header.length
          acc := some acc
          ctr := some 1
          blkcnt := some 0
          calls := .encrypt (nonce ++ beBytes 0 cw) :: .encrypt zero :: s.calls }) ∧
  (∀ s : State,
    (∀ nonce header cw p, selPoly (8 * s.bsize) s.poly = .ok p → s.nonce = some nonce → s.cw = some cw →
      s.header = some header →
      ¬ (nonce.length + cw = s.bsize ∧ 2 * nonce.length = s.bsize ∧ header.length ≤ s.bsize)) →
    exec .startAeadEnc s = .next (sessionRefused .aead .enc .configuration s))

/-- spec/45 R152; spec/46 R171: `START.AEAD.DEC` when its checks pass: the header length comes from `HLEN_CFG` and `ACC`
holds no value; the ConfigurationError when one does not. -/
def Obligations.StartAeadDecSetsUpTheSession : Prop :=
  (∀ (s : State) (nonce : Bytes) (cw hl : Nat) (p : ExpSet),
    selPoly (8 * s.bsize) s.poly = .ok p → s.nonce = some nonce → s.cw = some cw → s.hlenCfg = some hl →
    nonce.length + cw = s.bsize → 2 * nonce.length = s.bsize → hl ≤ s.bsize →
    exec .startAeadDec s =
      .next { sessionCreated .aead .dec .start s with
        h := some ⟨8 * s.bsize, intOf (encryptBlock Config.collab s.bsize (List.replicate s.bsize 0))⟩
        ek := some ⟨8 * s.bsize, intOf (encryptBlock Config.collab s.bsize (nonce ++ beBytes 0 cw))⟩
        hlen := some hl
        ctr := some 1
        blkcnt := some 0
        calls := .encrypt (nonce ++ beBytes 0 cw) :: .encrypt (List.replicate s.bsize 0) :: s.calls }) ∧
  (∀ s : State,
    (∀ nonce cw hl p, selPoly (8 * s.bsize) s.poly = .ok p → s.nonce = some nonce → s.cw = some cw →
      s.hlenCfg = some hl →
      ¬ (nonce.length + cw = s.bsize ∧ 2 * nonce.length = s.bsize ∧ hl ≤ s.bsize)) →
    exec .startAeadDec s = .next (sessionRefused .aead .dec .configuration s))

/-- spec/46 R173, spec/41 R119: `ABANDON`, from every state: the session and the sequencer are emptied, the configuration
stays, a new source is attached. -/
def Obligations.AbandonReturnsToIdle : Prop :=
  ∀ s : State,
    exec .abandon s =
      .next { s with
        mode := none
        dir := none
        phase := .idle
        fault := none
        verify := ⟨false, false⟩
        cv := none
        ctr := none
        acc := none
        h := none
        ek := none
        blkcnt := none
        hlen := none
        seq := .unprimed
        src := s.sources.head?
        sources := s.sources.tail
        responses := .ok :: s.responses }

/-! ### PULL -/

/-- spec/46 R172: `PULL` with no session in progress: rejected in `IDLE`, `Done` again in `DONE` (with `VERIFY.OK` for AEAD
decrypt), the fault again in `FAULTED`. -/
def Obligations.PullWithoutAnActiveSession : Prop :=
  (∀ s : State, s.phase = .idle → exec .pull s = .next { s with responses := .rejected :: s.responses }) ∧
  (∀ s : State, s.phase = .done →
    exec .pull s =
      .next { s with
        responses :=
          .done (if s.mode = some .aead ∧ s.dir = some .dec then some s.verify.ok else none) :: s.responses }) ∧
  (∀ (s : State) (x : FaultClass), s.phase = .faulted → s.fault = some x →
    exec .pull s = .next { s with responses := .fault x :: s.responses })

/-- spec/46 R172, spec/60 R188: a source failure at `SeqNext()` is the fault of the step, in every session that takes an
item. -/
def Obligations.PullFaultsWhenTheSourceFails : Prop :=
  ∀ (s s1 : State) (m : Mode) (d : Dir), sourceFits s = true → s.mode = some m → s.dir = some d →
    (s.phase = .chaining ∨ (s.phase = .start ∧ d = .dec ∧ (m = .cbc ∨ m = .aead))) →
    seqNext s = (s1, .failed) →
    exec .pull s = .next (sessionFaulted .stream s1)

/-- spec/42 R123, R125: `PULL` in an ECB encrypt session, for the item `SeqNext()` gives. -/
def Obligations.PullEcbEncrypt : Prop :=
  ∀ (s s1 : State) (c : Bytes) (last : Bool),
    s.phase = .chaining → s.mode = some .ecb → s.dir = some .enc → sourceFits s = true →
    seqNext s = (s1, .item c last) →
    let E := encryptBlock Config.collab s.bsize
    let p := Config.collab.padApply s.bsize c
    (last = false → c.length = s.bsize →
      exec .pull s = .next { s1 with responses := .out (E c) :: s1.responses, calls := .encrypt c :: s1.calls }) ∧
    (last = false → c.length ≠ s.bsize → exec .pull s = .next (sessionFaulted .blockLength s1)) ∧
    (last = true →
      exec .pull s =
        .next
          (if p.length = s.bsize then
            { s1 with
              phase := .done
              responses := .out (E p) :: s1.responses
              calls := .encrypt p :: .padApply c :: s1.calls }
          else if p.length = 2 * s.bsize then
            { s1 with
              phase := .done
              responses := .out (E (p.take s.bsize) ++ E (p.drop s.bsize)) :: s1.responses
              calls := .encrypt (p.drop s.bsize) :: .encrypt (p.take s.bsize) :: .padApply c :: s1.calls }
          else sessionFaulted .paddingScheme { s1 with calls := .padApply c :: s1.calls }))

/-- spec/42 R124: `PULL` in an ECB decrypt session, for the item `SeqNext()` gives. -/
def Obligations.PullEcbDecrypt : Prop :=
  ∀ (s s1 : State) (c : Bytes) (last : Bool),
    s.phase = .chaining → s.mode = some .ecb → s.dir = some .dec → sourceFits s = true →
    seqNext s = (s1, .item c last) →
    let p := decryptBlock Config.collab s.bsize c
    (c.length ≠ s.bsize → exec .pull s = .next (sessionFaulted .blockLength s1)) ∧
    (c.length = s.bsize → last = false →
      exec .pull s = .next { s1 with responses := .out p :: s1.responses, calls := .decrypt c :: s1.calls }) ∧
    (c.length = s.bsize → last = true →
      exec .pull s =
        .next { s1 with
          phase := .done
          responses := .out (Config.collab.padRemove s.bsize p) :: s1.responses
          calls := .padRemove p :: .decrypt c :: s1.calls })

/-- spec/43 R133: `PULL` in a CBC encrypt session: the IV first, with the sequencer untouched, then the chain. -/
def Obligations.PullCbcEncrypt : Prop :=
  (∀ (s : State) (cv : Bytes), s.phase = .start → s.mode = some .cbc → s.dir = some .enc → s.cv = some cv →
    exec .pull s = .next { s with phase := .chaining, responses := .out cv :: s.responses }) ∧
  (∀ (s s1 : State) (cv c : Bytes) (last : Bool),
    s.phase = .chaining → s.mode = some .cbc → s.dir = some .enc → sourceFits s = true → s.cv = some cv →
    seqNext s = (s1, .item c last) →
    let E := encryptBlock Config.collab s.bsize
    let p := Config.collab.padApply s.bsize c
    let x1 := bxor (p.take s.bsize) cv
    let x2 := bxor (p.drop s.bsize) (E x1)
    (last = false → c.length = s.bsize →
      exec .pull s =
        .next { s1 with
          cv := some (E (bxor c cv))
          responses := .out (E (bxor c cv)) :: s1.responses
          calls := .encrypt (bxor c cv) :: s1.calls }) ∧
    (last = false → c.length ≠ s.bsize → exec .pull s = .next (sessionFaulted .blockLength s1)) ∧
    (last = true →
      exec .pull s =
        .next
          (if p.length = s.bsize then
            { s1 with
              phase := .done
              cv := none
              responses := .out (E x1) :: s1.responses
              calls := .encrypt x1 :: .padApply c :: s1.calls }
          else if p.length = 2 * s.bsize then
            { s1 with
              phase := .done
              cv := none
              responses := .out (E x1 ++ E x2) :: s1.responses
              calls := .encrypt x2 :: .encrypt x1 :: .padApply c :: s1.calls }
          else sessionFaulted .paddingScheme { s1 with calls := .padApply c :: s1.calls })))

/-- spec/43 R134: `PULL` in a CBC decrypt session in `CHAINING`; in `START` the first item is the IV, which is stored and
neither decrypted nor emitted, and the same `PULL` goes on with the next item. -/
def Obligations.PullCbcDecrypt : Prop :=
  (∀ (s s1 : State) (cv c : Bytes) (last : Bool),
    s.phase = .chaining → s.mode = some .cbc → s.dir = some .dec → sourceFits s = true → s.cv = some cv →
    seqNext s = (s1, .item c last) →
    let p := bxor (decryptBlock Config.collab s.bsize c) cv
    (c.length ≠ s.bsize → exec .pull s = .next (sessionFaulted .blockLength s1)) ∧
    (c.length = s.bsize → last = false →
      exec .pull s =
        .next { s1 with
          cv := some c
          responses := .out p :: s1.responses
          calls := .decrypt c :: s1.calls }) ∧
    (c.length = s.bsize → last = true →
      exec .pull s =
        .next { s1 with
          phase := .done
          cv := none
          responses := .out (Config.collab.padRemove s.bsize p) :: s1.responses
          calls := .padRemove p :: .decrypt c :: s1.calls })) ∧
  (∀ (s s1 : State) (c : Bytes) (last : Bool),
    s.phase = .start → s.mode = some .cbc → s.dir = some .dec → sourceFits s = true →
    seqNext s = (s1, .item c last) →
    (last = true ∨ c.length ≠ s.bsize → exec .pull s = .next (sessionFaulted .stream s1)) ∧
    (last = false → c.length = s.bsize →
      exec .pull s = exec .pull { s1 with cv := some c, phase := .chaining }))

/-- spec/44 R143, R144, R146: `PULL` in a CTR session of either direction: the leading keystream bytes, the counter one
further, and the RangeError where the counter no longer fits `CW` bytes. -/
def Obligations.PullCtr : Prop :=
  ∀ (s s1 : State) (d : Dir) (nonce c : Bytes) (cw n : Nat) (last : Bool),
    s.phase = .chaining → s.mode = some .ctr → s.dir = some d → sourceFits s = true →
    s.nonce = some nonce → s.cw = some cw → s.ctr = some n →
    seqNext s = (s1, .item c last) →
    let block := nonce ++ beBytes n cw
    (n < 2 ^ (8 * cw) →
      exec .pull s =
        .next { s1 with
          phase := if last then .done else .chaining
          ctr := some (n + 1)
          responses := .out (bxor c ((encryptBlock Config.collab s.bsize block).take c.length)) :: s1.responses
          calls := .encrypt block :: s1.calls }) ∧
    (2 ^ (8 * cw) ≤ n → exec .pull s = .next (sessionFaulted .range s1))

/-- spec/45 R153, R157: `PULL` in an AEAD encrypt session: the header block first, with the sequencer untouched; then for each
full chunk the ciphertext, taken into the accumulator. -/
def Obligations.PullAeadEncrypt : Prop :=
  (∀ (s : State) (header : Bytes), s.phase = .start → s.mode = some .aead → s.dir = some .enc →
    s.header = some header →
    exec .pull s =
      .next { s with phase := .chaining, responses := .out (beBytes (intOf header) s.bsize) :: s.responses }) ∧
  (∀ (s s1 : State) (c : Bytes) (last : Bool), StateInv s →
    s.phase = .chaining → s.mode = some .aead → s.dir = some .enc →
    seqNext s = (s1, .item c last) →
    (c.length ≠ s.bsize → exec .pull s = .next (sessionFaulted .configuration s1)) ∧
    (c.length = s.bsize → ∀ nonce cw n bc acc hk,
      s.nonce = some nonce → s.cw = some cw → s.ctr = some n → s.blkcnt = some bc → s.acc = some acc →
      s.h = some hk →
      let block := nonce ++ beBytes n cw
      let ct := bxor c (encryptBlock Config.collab s.bsize block)
      (n < 2 ^ (8 * cw) →
        ∃ acc' : Elem,
          feMultOp ⟨8 * s.bsize, acc.v ^^^ intOf ct⟩ hk s.poly = .ok acc' ∧
          exec .pull s =
            .next { s1 with
              phase := if last then .final else .chaining
              acc := some acc'
              ctr := some (n + 1)
              blkcnt := some (bc + 1)
              responses := .out ct :: s1.responses
              calls := .encrypt block :: s1.calls }) ∧
      (2 ^ (8 * cw) ≤ n → exec .pull s = .next (sessionFaulted .range s1))))

/-- spec/45 R158, R159: `PULL` in an AEAD encrypt session in `FINAL`: the tag block, from the length element
`(HLEN << (n/2)) | BLKCNT`. -/
def Obligations.PullAeadTag : Prop :=
  ∀ (s : State) (acc hk ek : Elem) (bc hl : Nat), StateInv s →
    s.phase = .final → s.mode = some .aead → s.dir = some .enc →
    s.acc = some acc → s.h = some hk → s.ek = some ek → s.blkcnt = some bc → s.hlen = some hl →
    ∃ acc' : Elem,
      feMultOp ⟨8 * s.bsize, acc.v ^^^ ((hl <<< (4 * s.bsize)) ||| bc)⟩ hk s.poly = .ok acc' ∧
      exec .pull s =
        .next { s with
          phase := .done
          acc := some acc'
          responses := .out (beBytes (acc'.v ^^^ ek.v) s.bsize) :: s.responses }

/-- spec/45 R160: `PULL` in an AEAD decrypt session in `START`: the header block seeds `ACC` and is not emitted, and the same
`PULL` goes on with the next item. -/
def Obligations.PullAeadHeader : Prop :=
  ∀ (s s1 : State) (c : Bytes) (last : Bool), StateInv s →
    s.phase = .start → s.mode = some .aead → s.dir = some .dec →
    seqNext s = (s1, .item c last) →
    (last = true → exec .pull s = .next (sessionFaulted .stream s1)) ∧
    (last = false → c.length ≠ s.bsize → exec .pull s = .next (sessionFaulted .configuration s1)) ∧
    (last = false → c.length = s.bsize → ∀ hk, s.h = some hk →
      ∃ acc : Elem, feMultOp ⟨8 * s.bsize, intOf c⟩ hk s.poly = .ok acc ∧
        exec .pull s = exec .pull { s1 with acc := some acc, phase := .chaining })

/-- spec/45 R161, R162, R163: `PULL` in an AEAD decrypt session in `CHAINING`: a ciphertext block is taken into the
accumulator as it came and then decrypted; the last block is never decrypted but compared, and the outcome is a value. -/
def Obligations.PullAeadDecrypt : Prop :=
  ∀ (s s1 : State) (c : Bytes) (last : Bool), StateInv s →
    s.phase = .chaining → s.mode = some .aead → s.dir = some .dec →
    seqNext s = (s1, .item c last) →
    (c.length ≠ s.bsize → exec .pull s = .next (sessionFaulted .configuration s1)) ∧
    (c.length = s.bsize → ∀ nonce cw n bc hl acc hk ek,
      s.nonce = some nonce → s.cw = some cw → s.ctr = some n → s.blkcnt = some bc → s.hlen = some hl →
      s.acc = some acc → s.h = some hk → s.ek = some ek →
      let block := nonce ++ beBytes n cw
      let pt := bxor c (encryptBlock Config.collab s.bsize block)
      (last = false → n < 2 ^ (8 * cw) →
        ∃ acc' : Elem,
          feMultOp ⟨8 * s.bsize, acc.v ^^^ intOf c⟩ hk s.poly = .ok acc' ∧
          exec .pull s =
            .next { s1 with
              acc := some acc'
              ctr := some (n + 1)
              blkcnt := some (bc + 1)
              responses := .out pt :: s1.responses
              calls := .encrypt block :: s1.calls }) ∧
      (last = false → 2 ^ (8 * cw) ≤ n → exec .pull s = .next (sessionFaulted .range s1)) ∧
      (last = true →
        ∃ acc' : Elem,
          feMultOp ⟨8 * s.bsize, acc.v ^^^ ((hl <<< (4 * s.bsize)) ||| bc)⟩ hk s.poly = .ok acc' ∧
          exec .pull s =
            .next { s1 with
              phase := .done
              acc := some acc'
              verify := ⟨true, decide (beBytes (acc'.v ^^^ ek.v) s.bsize = c)⟩
              responses := .done (some (decide (beBytes (acc'.v ^^^ ek.v) s.bsize = c))) :: s1.responses }))

/-! ### Register commands -/

/-- spec/46 R178: `CFG.WR`: each configuration register takes the value, unchecked, when no session is active; every other
register, and every register during a session, is rejected. -/
def Obligations.CfgWrWritesTheNamedRegister : Prop :=
  (∀ s : State, s.phase.active = false →
    (∀ x, exec (.cfgWr .nonce (.bytes x)) s = .next { s with nonce := some x, responses := .ok :: s.responses }) ∧
    (∀ x, exec (.cfgWr .cw (.int x)) s = .next { s with cw := some x, responses := .ok :: s.responses }) ∧
    (∀ x, exec (.cfgWr .iv (.bytes x)) s = .next { s with iv := some x, responses := .ok :: s.responses }) ∧
    (∀ x, exec (.cfgWr .header (.bytes x)) s = .next { s with header := some x, responses := .ok :: s.responses }) ∧
    (∀ x, exec (.cfgWr .hlenCfg (.int x)) s = .next { s with hlenCfg := some x, responses := .ok :: s.responses }) ∧
    (∀ x, exec (.cfgWr .poly (.poly x)) s = .next { s with poly := x, responses := .ok :: s.responses })) ∧
  (∀ (s : State) (r : Reg) (x : Value), s.phase = .start ∨ s.phase = .chaining ∨ s.phase = .final →
    exec (.cfgWr r x) s = .next { s with responses := .rejected :: s.responses }) ∧
  (∀ (s : State) (r : Reg) (x : Value), r ∉ [.nonce, .cw, .iv, .header, .hlenCfg, .poly] →
    exec (.cfgWr r x) s = .next { s with responses := .rejected :: s.responses })

/-- spec/46 R179, spec/10 R41, spec/30 R86: `REG.RD` in every phase: the value of the register, codes for the enumerated
ones, and `Rejected` for a register that holds no value; nothing else changes. -/
def Obligations.RegRdReadsTheNamedRegister : Prop :=
  ∀ s : State,
    let answer (r : Reg) (x : Option Value) : Prop :=
      exec (.regRd r) s =
        .next { s with responses := x.elim .rejected .value :: s.responses }
    answer .bsize (some (.int s.bsize)) ∧
    answer .nonce (s.nonce.map .bytes) ∧ answer .cw (s.cw.map .int) ∧ answer .iv (s.iv.map .bytes) ∧
    answer .header (s.header.map .bytes) ∧ answer .hlenCfg (s.hlenCfg.map .int) ∧
    answer .poly (some (.poly s.poly)) ∧
    answer .mode (s.mode.map fun m =>
      .bits2 (match m with | .ecb => 0 | .cbc => 1 | .ctr => 2 | .aead => 3)) ∧
    answer .dir (s.dir.map fun d => .bits1 (match d with | .enc => 0 | .dec => 1)) ∧
    answer .phase (some (.bits3 (match s.phase with
      | .idle => 0 | .start => 1 | .chaining => 2 | .final => 3 | .done => 4 | .faulted => 5))) ∧
    answer .fault (some (.bits3 (match s.fault with
      | none => 0 | some .configuration => 1 | some .paddingScheme => 2 | some .stream => 3
      | some .internalInvariant => 4 | some .range => 5 | some .argument => 6 | some .blockLength => 7))) ∧
    answer .verify (some (.bits2 (match s.verify.valid, s.verify.ok with
      | false, false => 0b00 | false, true => 0b01 | true, false => 0b10 | true, true => 0b11))) ∧
    answer .cv (s.cv.map .bytes) ∧ answer .ctr (s.ctr.map .int) ∧ answer .acc (s.acc.map .elem) ∧
    answer .h (s.h.map .elem) ∧ answer .ek (s.ek.map .elem) ∧ answer .blkcnt (s.blkcnt.map .int) ∧
    answer .hlen (s.hlen.map .int) ∧
    answer .seqPhase (some (.bits2 (match s.seq with
      | .unprimed => 0 | .primed _ => 1 | .exhausted => 2 | .failed => 3))) ∧
    answer .la (match s.seq with | .primed c => some (.bytes c) | _ => none)

/-! ### Rules about every command -/

/-- spec/30 R81, spec/10 R36: every command that runs gives exactly one response, leaves the issued commands and the earlier
responses alone, and never changes `BSIZE`. -/
def Obligations.EveryCommandAnswersOnce : Prop :=
  ∀ (i : Instr) (s t : State), exec i s = .next t →
    (∃ r, t.responses = r :: s.responses) ∧ t.pending = s.pending ∧ t.bsize = s.bsize

/-- spec/46 R170, R176: a command is answered `Rejected` exactly where R170's table, R178 and R179 say so, and then no
register changes and no port call is made. -/
def Obligations.RejectedExactlyWhenIllegal : Prop :=
  ∀ (i : Instr) (s t : State), exec i s = .next t →
    (t.responses = .rejected :: s.responses ↔
      match i with
      | .seqNext => s.phase ≠ .idle
      | .pull => s.phase = .idle
      | .cfgWr r _ =>
        (s.phase = .start ∨ s.phase = .chaining ∨ s.phase = .final) ∨ r ∉ [.nonce, .cw, .iv, .header, .hlenCfg, .poly]
      | .regRd r => readReg s r = none
      | _ => False) ∧
    (t.responses = .rejected :: s.responses → t = { s with responses := .rejected :: s.responses })

/-- spec/70 R222: `CFG.WR` is rejected while a session is active, and no other command writes a configuration register in any
phase, so that a session runs with the configuration its `START` tested. -/
def Obligations.ConfigurationIsFrozenDuringASession : Prop :=
  (∀ (r : Reg) (x : Value) (s : State), s.phase = .start ∨ s.phase = .chaining ∨ s.phase = .final →
    exec (.cfgWr r x) s = .next { s with responses := .rejected :: s.responses }) ∧
  (∀ (i : Instr) (s t : State), exec i s = .next t → (∀ r x, i ≠ .cfgWr r x) →
    t.nonce = s.nonce ∧ t.cw = s.cw ∧ t.iv = s.iv ∧ t.header = s.header ∧ t.hlenCfg = s.hlenCfg ∧ t.poly = s.poly)

/-- spec/10 R29, spec/60 R199: the moves of `PHASE`. `START` opens a session in its kind's first phase or faults, `ABANDON`
goes to `IDLE`, a `PULL` in an active session moves as R29's table says, and nothing else moves it. -/
def Obligations.PhaseMovesAsTheTableSays : Prop :=
  ∀ (i : Instr) (s t : State), exec i s = .next t →
    match i with
    | .abandon => t.phase = .idle
    | .pull =>
      t.phase = s.phase ∨
      (s.phase.active = true ∧
        (t.phase = .faulted ∨
          (s.phase = .chaining ∧ t.phase = .done ∧ ¬ (s.mode = some .aead ∧ s.dir = some .enc)) ∨
          (s.phase = .start ∧ t.phase = .chaining ∧ (s.mode = some .cbc ∨ s.mode = some .aead)) ∨
          (s.phase = .start ∧ t.phase = .done ∧ s.dir = some .dec ∧ (s.mode = some .cbc ∨ s.mode = some .aead)) ∨
          (s.phase = .chaining ∧ t.phase = .final ∧ s.mode = some .aead ∧ s.dir = some .enc) ∨
          (s.phase = .final ∧ t.phase = .done ∧ s.mode = some .aead ∧ s.dir = some .enc)))
    | _ =>
      match startsSession i with
      | some (.ecb, _) => t.phase = .chaining
      | some (.cbc, _) => t.phase = .start ∨ t.phase = .faulted
      | some (.ctr, _) => t.phase = .chaining ∨ t.phase = .faulted
      | some (.aead, _) => t.phase = .start ∨ t.phase = .faulted
      | none => t.phase = s.phase

/-- spec/60 R197: fault entry. A fault of `START` or of a `PULL` step enters `FAULTED` with its code and takes the session's
data; a fault of any other command writes no session register. -/
def Obligations.FaultEntryFollowsR197 : Prop :=
  ∀ (i : Instr) (s t : State) (x : FaultClass), exec i s = .next t → t.responses = .fault x :: s.responses →
    (startsSession i ≠ none ∨ (i = .pull ∧ s.phase.active = true) →
      t.phase = .faulted ∧ t.fault = some x ∧ NoData t) ∧
    (i = .pull ∧ s.phase.active = true →
      t.mode = s.mode ∧ t.dir = s.dir ∧ t.verify = s.verify) ∧
    (∀ m d, startsSession i = some (m, d) →
      t.mode = some m ∧ t.dir = some d ∧ t.verify = ⟨false, false⟩ ∧ t.seq = .unprimed) ∧
    (startsSession i = none → ¬ (i = .pull ∧ s.phase.active = true) →
      ∃ q src d l, t = { s with
        seq := q
        src := src
        drawn := d
        calls := l
        responses := .fault x :: s.responses } ∧
        (i ≠ .seqNext → q = s.seq ∧ src = s.src ∧ d = s.drawn ∧ l = s.calls))

/-- spec/10 R31, spec/45 R163: `START`, also one that faults, and `ABANDON` clear `VERIFY`; of all other commands only the AEAD
decrypt step that answers `Done` with the outcome writes it. -/
def Obligations.VerifyIsWrittenByTheTagStepAlone : Prop :=
  ∀ (i : Instr) (s t : State), exec i s = .next t →
    (startsSession i ≠ none ∨ i = .abandon → t.verify = ⟨false, false⟩) ∧
    (startsSession i = none → i ≠ .abandon →
      t.verify = s.verify ∨
      (i = .pull ∧ s.mode = some .aead ∧ s.dir = some .dec ∧ (s.phase = .start ∨ s.phase = .chaining) ∧
        t.phase = .done ∧ t.fault = s.fault ∧ t.verify.valid = true ∧
        t.responses = .done (some t.verify.ok) :: s.responses))

/-- spec/44 R140, spec/45 R150: in a CTR or AEAD session "Only `E` is ever called, never `D`, and never the padding
collaborator". -/
def Obligations.CtrAndAeadCallOnlyE : Prop :=
  ∀ s t : State, s.mode = some .ctr ∨ s.mode = some .aead → exec .pull s = .next t →
    ∃ new, t.calls = new ++ s.calls ∧ ∀ c ∈ new, (∃ a, c = .srcNext a) ∨ (∃ b, c = .encrypt b)

/-- spec/44 R142, R144: in a CTR session the direction is recorded and never read: the same step with the other direction gives the
same result, but for that bit. -/
def Obligations.CtrDirectionIsNotRead : Prop :=
  ∀ (s t : State) (d : Dir), s.mode = some .ctr → s.dir ≠ none → exec .pull s = .next t →
    exec .pull { s with dir := some d } =
      .next { t with dir := some d }

/-- spec/41 R117, spec/60 R204, spec/30 R80: what the machine's types exclude is refused, and nothing else is: a source with a
chunk longer than a block, where it is read, and operands that "cannot be expressed". (Where the refusal stands is the
model's choice, log 5, log 12 and log 24.) -/
def Obligations.StopsOnWhatTheTypesExclude : Prop :=
  (∀ s : State, s.phase = .idle → sourceFits s = false → exec .seqNext s = .refused .chunkLongerThanBlock) ∧
  (∀ (s : State) (m : Mode) (d : Dir), sourceFits s = false → s.mode = some m → s.dir = some d →
    (s.phase = .chaining ∨ (s.phase = .start ∧ d = .dec ∧ (m = .cbc ∨ m = .aead))) →
    exec .pull s = .refused .chunkLongerThanBlock) ∧
  (∀ (s : State) (r : Reg) (x : Value), s.phase.active = false → r ∈ [.nonce, .cw, .iv, .header, .hlenCfg, .poly] →
    x.kind ≠ r.kind → exec (.cfgWr r x) s = .refused .operandsInexpressible) ∧
  (∀ (s : State) (c : Command) (rest : List Command), s.pending = c :: rest → decode c = .error .illTypedOperands →
    step s = .refused .operandsInexpressible) ∧
  (∀ (i : Instr) (s : State) (x : Refusal), exec i s = .refused x →
    (x = .chunkLongerThanBlock ∧ sourceFits s = false ∧ (i = .seqNext ∨ i = .pull)) ∨
    (x = .operandsInexpressible ∧ ∃ r v, i = .cfgWr r v ∧ v.kind ≠ r.kind))

/-! ### Invariants -/

/-- The invariant holds after reset. -/
def Obligations.ResetMeetsTheInvariant : Prop := StateInv State.reset

/-- spec/10 R20 to R37, spec/45 R166: every step keeps the invariant. -/
def Obligations.EveryStepKeepsTheInvariant : Prop := ∀ s t : State, StateInv s → step s = .next t → StateInv t

/-- spec/10 R20: from a state that meets the invariant every step answers a next state: no register without a
value is read, no session is in a phase that is not its own, and nothing is refused. -/
def Obligations.NoStepIsStuck : Prop := ∀ s : State, StateInv s → ∃ t, step s = .next t

/-- spec/45 R151, R152, R157 (R166 marks it as an inference): in an AEAD session the length element fits: its halves are `HLEN`
and `BLKCNT` and do not overlap. -/
def Obligations.LengthElementFits : Prop :=
  ∀ (s : State) (hl bc : Nat), StateInv s → s.phase.active = true → s.mode = some .aead →
    s.hlen = some hl → s.blkcnt = some bc →
    lengthInt (8 * s.bsize) hl bc < 2 ^ (8 * s.bsize) ∧
    lengthInt (8 * s.bsize) hl bc / 2 ^ (4 * s.bsize) = hl ∧
    lengthInt (8 * s.bsize) hl bc % 2 ^ (4 * s.bsize) = bc

/-- spec/45 R158, R159 (R221 marks it as an inference): with the hash subkey 0 the tag is `EK`, whatever the header and the ciphertext. -/
def Obligations.ZeroSubkeyMakesTheTagTheMask : Prop :=
  ∀ (s : State) (ek : Elem), StateInv s → s.phase = .final → s.mode = some .aead → s.dir = some .enc →
    s.h = some ⟨8 * s.bsize, 0⟩ → s.ek = some ek →
    ∃ t, exec .pull s = .next t ∧ t.acc = some ⟨8 * s.bsize, 0⟩ ∧
      t.responses = .out (beBytes ek.v s.bsize) :: s.responses

/-! ### Whole streams, for any collaborators -/

/-- spec/46 R172 and the step rules (R225 marks the bound as an inference): over a source of `k` chunks a session ends, in `DONE` or `FAULTED`, within `k + 3` `PULL`s; so every whole-stream run (spec/30 R85) has a
result, whether it ends in `Done` or in `Fault`, in the session or at its `START`. -/
def Obligations.SessionEndsWithinTheBound : Prop :=
  (∀ (k : Collab) (s : State), StateInv s → s.phase.active = true →
    ∃ t, pullUntilEnd k (pullBound (attachedSource s).chunks.length) s = .next t ∧
      (t.phase = .done ∨ t.phase = .faulted)) ∧
  (∀ (k : Collab) (m : Mode) (d : Dir) (src : Source) (s : State), StateInv s → fitsBlock s.bsize src = true →
    ∃ r, streamResult k m d src s = some r)

/-- spec/42 R123, R124; the source's round trip with R126's hypotheses, which are an inference of the spec: ECB decrypt of ECB encrypt gives the plaintext, for every length, where `D` undoes `E` and the padding
scheme is last-block local. -/
def Obligations.EcbRoundTrip : Prop :=
  ∀ (k : Collab) (s : State) (plain : Bytes), 0 < s.bsize → Inverts k s.bsize → LastBlockLocal k s.bsize →
    ∃ cipher, streamCall k .ecb .enc (sourceOf s.bsize plain) s = some ⟨cipher, .done none⟩ ∧
      streamCall k .ecb .dec (sourceOf s.bsize cipher) s = some ⟨plain, .done none⟩

/-- spec/43 R133, R134; the source's round trip with the hypotheses that R126 and R137 infer: CBC encrypt begins with the IV, and CBC decrypt of it gives the plaintext, for every length,
where `D` undoes `E` and the padding scheme is last-block local. -/
def Obligations.CbcRoundTrip : Prop :=
  ∀ (k : Collab) (s : State) (iv plain : Bytes), 0 < s.bsize → s.iv = some iv → iv.length = s.bsize →
    Inverts k s.bsize → LastBlockLocal k s.bsize →
    ∃ cipher, streamCall k .cbc .enc (sourceOf s.bsize plain) s = some ⟨iv ++ cipher, .done none⟩ ∧
      streamCall k .cbc .dec (sourceOf s.bsize (iv ++ cipher)) s = some ⟨plain, .done none⟩

/-- spec/44 R144, R146 (R145 marks it as an inference): a CTR session applied twice gives the input, of any length the counter can serve, for any `E`; the
output is as long as the input. -/
def Obligations.CtrRoundTrip : Prop :=
  ∀ (k : Collab) (s : State) (nonce plain : Bytes) (cw : Nat), 0 < s.bsize → s.nonce = some nonce → s.cw = some cw →
    nonce.length + cw = s.bsize → (frame s.bsize plain).length ≤ 2 ^ (8 * cw) →
    ∃ cipher, streamCall k .ctr .enc (sourceOf s.bsize plain) s = some ⟨cipher, .done none⟩ ∧
      cipher.length = plain.length ∧
      streamCall k .ctr .dec (sourceOf s.bsize cipher) s = some ⟨plain, .done none⟩

/-- spec/45 R151 to R162 (R165 (a) and (b), which it marks as inferences): AEAD decrypt of AEAD encrypt recovers the plaintext and verifies, for any `E`, when the plaintext is a
positive number of whole blocks that the counter can serve and `HLEN_CFG` is the header's length; and with the tag block
replaced by any other block the plaintext still comes out and verification fails. -/
def Obligations.AeadRoundTripAndTamperedTag : Prop :=
  ∀ (k : Collab) (s : State) (nonce header plain : Bytes) (cw : Nat) (p : ExpSet),
    selPoly (8 * s.bsize) s.poly = .ok p → s.nonce = some nonce → s.cw = some cw → s.header = some header →
    nonce.length + cw = s.bsize → 2 * nonce.length = s.bsize → header.length ≤ s.bsize →
    s.hlenCfg = some header.length →
    plain ≠ [] → plain.length % s.bsize = 0 → plain.length / s.bsize < 2 ^ (8 * cw) →
    ∃ body tag, tag.length = s.bsize ∧ body.length = plain.length + s.bsize ∧
      streamCall k .aead .enc (sourceOf s.bsize plain) s = some ⟨body ++ tag, .done none⟩ ∧
      streamCall k .aead .dec (sourceOf s.bsize (body ++ tag)) s = some ⟨plain, .done (some true)⟩ ∧
      ∀ other : Bytes, other.length = s.bsize → other ≠ tag →
        streamCall k .aead .dec (sourceOf s.bsize (body ++ other)) s = some ⟨plain, .done (some false)⟩
end

