-- ==== Sys2Proof/Laws/Operands.lean ====
section
/-!
SUPPORT. The small facts about FME's data forms: lengths and bounds of byte strings and integers, and what `SELPOLY`
guarantees of the polynomial it gives.
-/

namespace Sys2Proof.Machine

/-! ### Byte strings and integers (R8) -/

@[simp] theorem beBytes_length (v k : Nat) : (beBytes v k).length = k := by
  induction k generalizing v with
  | zero => rfl
  | succ k ih => simp [beBytes, ih]

@[simp] theorem intOf_nil : intOf [] = 0 := rfl

/-- The last byte is the least significant one. -/
theorem intOf_snoc (s : Bytes) (b : Byte) : intOf (s ++ [b]) = intOf s * 256 + b.toNat := by
  simp [intOf]

/-- `INT(s) < 2 ^ (8 · len(s))`. -/
theorem intOf_lt (s : Bytes) : intOf s < 2 ^ (8 * s.length) := by
  induction s using List.reverseRecOn with
  | nil => simp
  | append_singleton s b ih =>
    have hb : b.toNat < 256 := b.isLt
    have : 2 ^ (8 * (s ++ [b]).length) = 2 ^ (8 * s.length) * 256 := by
      simp [Nat.mul_add, Nat.pow_add]
    rw [intOf_snoc, this]
    omega

/-- `INT(BE(v, k)) = v` for a value that fits (R8). -/
theorem intOf_beBytes {v k : Nat} (h : v < 2 ^ (8 * k)) : intOf (beBytes v k) = v := by
  induction k generalizing v with
  | zero => simp at h; simp [beBytes, h]
  | succ k ih =>
    have : v / 256 < 2 ^ (8 * k) := by
      have : 2 ^ (8 * (k + 1)) = 2 ^ (8 * k) * 256 := by simp [Nat.mul_add, Nat.pow_add]
      omega
    rw [beBytes, intOf_snoc, ih this]
    simp
    omega

/-- `BE(INT(s), len(s)) = s` (R69). -/
theorem beBytes_intOf (s : Bytes) : beBytes (intOf s) s.length = s := by
  induction s using List.reverseRecOn with
  | nil => rfl
  | append_singleton s b ih =>
    have hb : b.toNat < 256 := b.isLt
    have h1 : (intOf s * 256 + b.toNat) / 256 = intOf s := by omega
    have h2 : BitVec.ofNat 8 (intOf s * 256 + b.toNat) = b := by
      apply BitVec.eq_of_toNat_eq
      simp
      omega
    rw [intOf_snoc, List.length_append, List.length_singleton, beBytes, h1, h2, ih]

@[simp] theorem bxor_length (s t : Bytes) : (bxor s t).length = min s.length t.length := by
  simp [bxor]

@[simp] theorem zeroBytes_length (k : Nat) : (zeroBytes k).length = k := by
  simp [zeroBytes]

/-- XOR with one string twice gives the string back. -/
theorem bxor_bxor_cancel (s t : Bytes) (h : s.length ≤ t.length) : bxor (bxor s t) t = s := by
  induction s generalizing t with
  | nil => simp [bxor]
  | cons b s ih =>
    cases t with
    | nil => simp at h
    | cons d t =>
      simp only [bxor, List.zipWith_cons_cons, List.cons.injEq]
      exact ⟨by simp, ih t (by simpa using h)⟩

/-! ### The cipher (R10) -/

@[simp] theorem encryptBlock_length (k : Collab) (n : Nat) (b : Bytes) : (encryptBlock k n b).length = n :=
  (k.E n (toBlock n b)).2

@[simp] theorem decryptBlock_length (k : Collab) (n : Nat) (b : Bytes) : (decryptBlock k n b).length = n :=
  (k.D n (toBlock n b)).2

/-- A byte string of `n` bytes is handed to the cipher as it is. -/
theorem toBlock_toList {n : Nat} {s : Bytes} (h : s.length = n) : (toBlock n s).toList = s := by
  simp [toBlock, h, List.Vector.toList]

@[simp] theorem toBlock_of_block {n : Nat} (b : Block n) : toBlock n b.toList = b := by
  have : b.toList.length = n := b.2
  apply List.Vector.toList_injective
  exact toBlock_toList this

/-! ### Polynomials (R67, R90) -/

/-- Bit `i` of the dense pattern is set exactly when `i` is an exponent. -/
theorem dense_testBit (p : ExpSet) (i : Nat) : (dense p).testBit i = decide (i ∈ p) := by
  induction p with
  | nil => simp [dense]
  | cons e rest ih =>
    have : (1 <<< e).testBit i = decide (i = e) := by
      simp [Nat.one_shiftLeft, Nat.testBit_two_pow, eq_comm]
    simp [dense, Nat.testBit_or, this, ih]

theorem degreeIs_iff (p : ExpSet) (n : Nat) : degreeIs p n = true ↔ n ∈ p ∧ ∀ e ∈ p, e ≤ n := by
  simp [degreeIs, List.max?_eq_some_iff]

/-- What `SELPOLY(n, …)` gives has highest exponent `n` (R90). -/
theorem degree_of_selPoly {n : Nat} {popt : Option ExpSet} {p : ExpSet} (h : selPoly n popt = .ok p) :
    n ∈ p ∧ ∀ e ∈ p, e ≤ n := by
  rw [← degreeIs_iff]
  unfold selPoly at h
  split at h
  · split at h
    · cases h; assumption
    · cases h
  · split at h
    · split at h
      · cases h; assumption
      · cases h
    · cases h

/-- The only fault `SELPOLY` raises is a ConfigurationError (R90). -/
theorem selPoly_error {n : Nat} {popt : Option ExpSet} {f : FaultClass} (h : selPoly n popt = .error f) :
    f = .configuration := by
  unfold selPoly at h
  split at h
  · split at h
    · cases h
    · cases h; rfl
  · split at h
    · split at h
      · cases h
      · cases h; rfl
    · cases h; rfl

theorem dense_testBit_of_selPoly {n : Nat} {popt : Option ExpSet} {p : ExpSet} (h : selPoly n popt = .ok p) :
    (dense p).testBit n = true := by
  simp [dense_testBit, (degree_of_selPoly h).1]

theorem dense_lt_of_selPoly {n : Nat} {popt : Option ExpSet} {p : ExpSet} (h : selPoly n popt = .ok p) :
    dense p < 2 ^ (n + 1) := by
  refine Nat.lt_pow_two_of_testBit _ fun i hi => ?_
  rw [dense_testBit]
  simp only [decide_eq_false_iff_not]
  intro hm
  have := (degree_of_selPoly h).2 i hm
  omega

end Sys2Proof.Machine
end

