-- ==== Sys2Proof/Laws/FieldEngine.lean ====
section
/-!
SUPPORT. What the Field Engine's operations answer: widths and bounds of the product, of the reduction and of their
results, and where `FE.MULT` faults.
-/

namespace Sys2Proof.Machine

/-! ### The carry-less product (R95) -/

/-- The product's part from `i` multiplier bits has at most `n + i` bits. -/
theorem clProduct_lt {a n : Nat} (h : a < 2 ^ n) (b i : Nat) : clProduct a b i < 2 ^ (n + i) := by
  induction i with
  | zero => simp [clProduct]
  | succ i ih =>
    have h1 : clProduct a b i < 2 ^ (n + (i + 1)) := lt_of_lt_of_le ih (Nat.pow_le_pow_right (by omega) (by omega))
    have h2 : a <<< i < 2 ^ (n + (i + 1)) := by
      rw [Nat.shiftLeft_eq]
      calc a * 2 ^ i < 2 ^ n * 2 ^ i := Nat.mul_lt_mul_of_pos_right h (Nat.two_pow_pos i)
        _ = 2 ^ (n + i) := (Nat.pow_add ..).symm
        _ ≤ 2 ^ (n + (i + 1)) := Nat.pow_le_pow_right (by omega) (by omega)
    simp only [clProduct]
    split
    · exact Nat.xor_lt_two_pow h1 h2
    · exact h1

/-- Multiplying 0 gives 0. -/
@[simp] theorem clProduct_zero_left (b i : Nat) : clProduct 0 b i = 0 := by
  induction i with
  | zero => rfl
  | succ i ih => simp [clProduct, ih]

/-- Multiplying by 0 gives 0. -/
@[simp] theorem clProduct_zero_right (a i : Nat) : clProduct a 0 i = 0 := by
  induction i with
  | zero => rfl
  | succ i ih => simp [clProduct, ih]

/-! ### The reduction (R97) -/

/-- Each pass of the loop clears the bit it tests, so the whole loop leaves less than `2 ^ n`, where the dense pattern's
top bit is bit `n`. -/
theorem reduceBits_lt {m n : Nat} (hm : m < 2 ^ (n + 1)) (hb : m.testBit n = true) :
    ∀ (i t : Nat), t < 2 ^ (n + i) → reduceBits m n i t < 2 ^ n := by
  intro i
  induction i with
  | zero => intro t ht; exact ht
  | succ i ih =>
    intro t ht
    refine ih _ ?_
    have hs : m <<< i < 2 ^ (n + i + 1) := by
      rw [Nat.shiftLeft_eq]
      calc m * 2 ^ i < 2 ^ (n + 1) * 2 ^ i := Nat.mul_lt_mul_of_pos_right hm (Nat.two_pow_pos i)
        _ = 2 ^ (n + i + 1) := by rw [← Nat.pow_add]; congr 1; omega
    refine Nat.lt_pow_two_of_testBit _ fun j hj => ?_
    by_cases hji : j = n + i
    · subst hji
      split
      · rename_i h1
        simp [Nat.testBit_xor, h1, Nat.testBit_shiftLeft, hb]
      · rename_i h1
        simpa using h1
    · have h1 : t.testBit j = false :=
        Nat.testBit_lt_two_pow (lt_of_lt_of_le ht (Nat.pow_le_pow_right (by omega) (by omega)))
      have h2 : (m <<< i).testBit j = false :=
        Nat.testBit_lt_two_pow (lt_of_lt_of_le hs (Nat.pow_le_pow_right (by omega) (by omega)))
      split
      · simp [Nat.testBit_xor, h1, h2]
      · exact h1

/-- Reducing 0 gives 0. -/
theorem reduceBits_zero (m n i : Nat) : reduceBits m n i 0 = 0 := by
  induction i with
  | zero => rfl
  | succ i ih => simpa [reduceBits] using ih

/-- A value that already has at most `n` bits is left alone. -/
theorem reduceBits_of_lt {m n t : Nat} (ht : t < 2 ^ n) (i : Nat) : reduceBits m n i t = t := by
  induction i with
  | zero => rfl
  | succ i ih =>
    have : t.testBit (n + i) = false :=
      Nat.testBit_lt_two_pow (lt_of_lt_of_le ht (Nat.pow_le_pow_right (by omega) (by omega)))
    simpa [reduceBits, this] using ih

/-- The last step passes a value of at most `n` bits through. -/
theorem truncateChecked_of_lt {n t : Nat} (ht : t < 2 ^ n) : truncateChecked n t = .ok ⟨n, t⟩ := by
  simp [truncateChecked, Nat.div_eq_of_lt ht, Nat.mod_eq_of_lt ht]

/-! ### The operations -/

/-- `FE.MULT` on elements of one width with a polynomial of that degree: the value, within its width (R94, R98). -/
theorem feMultOp_ok {a b : Elem} {popt : Option ExpSet} {p : ExpSet} (ha : a.v < 2 ^ a.n) (hn : a.n = b.n)
    (hp : selPoly a.n popt = .ok p) :
    reduceBits (dense p) a.n a.n (clProduct a.v b.v a.n) < 2 ^ a.n ∧
    feMultOp a b popt = .ok ⟨a.n, reduceBits (dense p) a.n a.n (clProduct a.v b.v a.n)⟩ := by
  have h1 := reduceBits_lt (dense_lt_of_selPoly hp) (dense_testBit_of_selPoly hp) a.n _ (clProduct_lt ha b.v a.n)
  exact ⟨h1, by simp [feMultOp, hn ▸ hp, hn, truncateChecked_of_lt (hn ▸ h1)]⟩

/-- The result of `FE.MULT` has the operands' width and fits it. -/
theorem feMultOp_fits {a b x : Elem} {popt : Option ExpSet} (ha : a.v < 2 ^ a.n) (h : feMultOp a b popt = .ok x) :
    x.n = a.n ∧ x.v < 2 ^ a.n := by
  by_cases hn : a.n = b.n
  · cases hp : selPoly a.n popt with
    | error f => simp [feMultOp, hn ▸ hp, hn] at h
    | ok p =>
      obtain ⟨h1, h2⟩ := feMultOp_ok ha hn hp
      rw [h2] at h
      cases h
      exact ⟨rfl, h1⟩
  · simp [feMultOp, hn] at h

/-- Elements of one width and a polynomial of that degree always have a product. -/
theorem feMultOp_exists {n : Nat} {a b : Elem} {popt : Option ExpSet} {p : ExpSet} (ha : a.n = n) (hav : a.v < 2 ^ n)
    (hb : b.n = n) (hp : selPoly n popt = .ok p) : ∃ x, feMultOp a b popt = .ok x ∧ x.n = n ∧ x.v < 2 ^ n := by
  subst ha
  obtain ⟨h1, h2⟩ := feMultOp_ok hav hb.symm hp
  exact ⟨_, h2, rfl, h1⟩

/-- `FE.XOR` on elements of one width (R93). -/
theorem feXorOp_ok {a b : Elem} (h : a.n = b.n) : feXorOp a b = .ok ⟨a.n, a.v ^^^ b.v⟩ := by
  simp [feXorOp, h]

theorem feNewOp_ok {n v : Nat} (h : v < 2 ^ n) : feNewOp n v = .ok ⟨n, v⟩ := by
  simp [feNewOp]; omega

end Sys2Proof.Machine
end

