-- ==== Sys2Proof/Laws/State.lean ====
section
/-!
SUPPORT. What each update of the state leaves in each field: one lemma a field, true by unfolding the update once.
-/

namespace Sys2Proof.Machine

@[simp] theorem respond_bsize (r : Response) (s : State) : (respond r s).bsize = s.bsize := rfl
@[simp] theorem respond_nonce (r : Response) (s : State) : (respond r s).nonce = s.nonce := rfl
@[simp] theorem respond_cw (r : Response) (s : State) : (respond r s).cw = s.cw := rfl
@[simp] theorem respond_iv (r : Response) (s : State) : (respond r s).iv = s.iv := rfl
@[simp] theorem respond_header (r : Response) (s : State) : (respond r s).header = s.header := rfl
@[simp] theorem respond_hlenCfg (r : Response) (s : State) : (respond r s).hlenCfg = s.hlenCfg := rfl
@[simp] theorem respond_poly (r : Response) (s : State) : (respond r s).poly = s.poly := rfl
@[simp] theorem respond_mode (r : Response) (s : State) : (respond r s).mode = s.mode := rfl
@[simp] theorem respond_dir (r : Response) (s : State) : (respond r s).dir = s.dir := rfl
@[simp] theorem respond_phase (r : Response) (s : State) : (respond r s).phase = s.phase := rfl
@[simp] theorem respond_fault (r : Response) (s : State) : (respond r s).fault = s.fault := rfl
@[simp] theorem respond_verify (r : Response) (s : State) : (respond r s).verify = s.verify := rfl
@[simp] theorem respond_cv (r : Response) (s : State) : (respond r s).cv = s.cv := rfl
@[simp] theorem respond_ctr (r : Response) (s : State) : (respond r s).ctr = s.ctr := rfl
@[simp] theorem respond_acc (r : Response) (s : State) : (respond r s).acc = s.acc := rfl
@[simp] theorem respond_h (r : Response) (s : State) : (respond r s).h = s.h := rfl
@[simp] theorem respond_ek (r : Response) (s : State) : (respond r s).ek = s.ek := rfl
@[simp] theorem respond_blkcnt (r : Response) (s : State) : (respond r s).blkcnt = s.blkcnt := rfl
@[simp] theorem respond_hlen (r : Response) (s : State) : (respond r s).hlen = s.hlen := rfl
@[simp] theorem respond_seq (r : Response) (s : State) : (respond r s).seq = s.seq := rfl
@[simp] theorem respond_src (r : Response) (s : State) : (respond r s).src = s.src := rfl
@[simp] theorem respond_sources (r : Response) (s : State) : (respond r s).sources = s.sources := rfl
@[simp] theorem respond_drawn (r : Response) (s : State) : (respond r s).drawn = s.drawn := rfl
@[simp] theorem respond_pending (r : Response) (s : State) : (respond r s).pending = s.pending := rfl
@[simp] theorem respond_responses (r : Response) (s : State) : (respond r s).responses = r :: s.responses := rfl
@[simp] theorem respond_calls (r : Response) (s : State) : (respond r s).calls = s.calls := rfl

@[simp] theorem reject_bsize (s : State) : (reject s).bsize = s.bsize := rfl
@[simp] theorem reject_nonce (s : State) : (reject s).nonce = s.nonce := rfl
@[simp] theorem reject_cw (s : State) : (reject s).cw = s.cw := rfl
@[simp] theorem reject_iv (s : State) : (reject s).iv = s.iv := rfl
@[simp] theorem reject_header (s : State) : (reject s).header = s.header := rfl
@[simp] theorem reject_hlenCfg (s : State) : (reject s).hlenCfg = s.hlenCfg := rfl
@[simp] theorem reject_poly (s : State) : (reject s).poly = s.poly := rfl
@[simp] theorem reject_mode (s : State) : (reject s).mode = s.mode := rfl
@[simp] theorem reject_dir (s : State) : (reject s).dir = s.dir := rfl
@[simp] theorem reject_phase (s : State) : (reject s).phase = s.phase := rfl
@[simp] theorem reject_fault (s : State) : (reject s).fault = s.fault := rfl
@[simp] theorem reject_verify (s : State) : (reject s).verify = s.verify := rfl
@[simp] theorem reject_cv (s : State) : (reject s).cv = s.cv := rfl
@[simp] theorem reject_ctr (s : State) : (reject s).ctr = s.ctr := rfl
@[simp] theorem reject_acc (s : State) : (reject s).acc = s.acc := rfl
@[simp] theorem reject_h (s : State) : (reject s).h = s.h := rfl
@[simp] theorem reject_ek (s : State) : (reject s).ek = s.ek := rfl
@[simp] theorem reject_blkcnt (s : State) : (reject s).blkcnt = s.blkcnt := rfl
@[simp] theorem reject_hlen (s : State) : (reject s).hlen = s.hlen := rfl
@[simp] theorem reject_seq (s : State) : (reject s).seq = s.seq := rfl
@[simp] theorem reject_src (s : State) : (reject s).src = s.src := rfl
@[simp] theorem reject_sources (s : State) : (reject s).sources = s.sources := rfl
@[simp] theorem reject_drawn (s : State) : (reject s).drawn = s.drawn := rfl
@[simp] theorem reject_pending (s : State) : (reject s).pending = s.pending := rfl
@[simp] theorem reject_responses (s : State) : (reject s).responses = .rejected :: s.responses := rfl
@[simp] theorem reject_calls (s : State) : (reject s).calls = s.calls := rfl

@[simp] theorem logCall_bsize (c : PortCall) (s : State) : (logCall c s).bsize = s.bsize := rfl
@[simp] theorem logCall_nonce (c : PortCall) (s : State) : (logCall c s).nonce = s.nonce := rfl
@[simp] theorem logCall_cw (c : PortCall) (s : State) : (logCall c s).cw = s.cw := rfl
@[simp] theorem logCall_iv (c : PortCall) (s : State) : (logCall c s).iv = s.iv := rfl
@[simp] theorem logCall_header (c : PortCall) (s : State) : (logCall c s).header = s.header := rfl
@[simp] theorem logCall_hlenCfg (c : PortCall) (s : State) : (logCall c s).hlenCfg = s.hlenCfg := rfl
@[simp] theorem logCall_poly (c : PortCall) (s : State) : (logCall c s).poly = s.poly := rfl
@[simp] theorem logCall_mode (c : PortCall) (s : State) : (logCall c s).mode = s.mode := rfl
@[simp] theorem logCall_dir (c : PortCall) (s : State) : (logCall c s).dir = s.dir := rfl
@[simp] theorem logCall_phase (c : PortCall) (s : State) : (logCall c s).phase = s.phase := rfl
@[simp] theorem logCall_fault (c : PortCall) (s : State) : (logCall c s).fault = s.fault := rfl
@[simp] theorem logCall_verify (c : PortCall) (s : State) : (logCall c s).verify = s.verify := rfl
@[simp] theorem logCall_cv (c : PortCall) (s : State) : (logCall c s).cv = s.cv := rfl
@[simp] theorem logCall_ctr (c : PortCall) (s : State) : (logCall c s).ctr = s.ctr := rfl
@[simp] theorem logCall_acc (c : PortCall) (s : State) : (logCall c s).acc = s.acc := rfl
@[simp] theorem logCall_h (c : PortCall) (s : State) : (logCall c s).h = s.h := rfl
@[simp] theorem logCall_ek (c : PortCall) (s : State) : (logCall c s).ek = s.ek := rfl
@[simp] theorem logCall_blkcnt (c : PortCall) (s : State) : (logCall c s).blkcnt = s.blkcnt := rfl
@[simp] theorem logCall_hlen (c : PortCall) (s : State) : (logCall c s).hlen = s.hlen := rfl
@[simp] theorem logCall_seq (c : PortCall) (s : State) : (logCall c s).seq = s.seq := rfl
@[simp] theorem logCall_src (c : PortCall) (s : State) : (logCall c s).src = s.src := rfl
@[simp] theorem logCall_sources (c : PortCall) (s : State) : (logCall c s).sources = s.sources := rfl
@[simp] theorem logCall_drawn (c : PortCall) (s : State) : (logCall c s).drawn = s.drawn := rfl
@[simp] theorem logCall_pending (c : PortCall) (s : State) : (logCall c s).pending = s.pending := rfl
@[simp] theorem logCall_responses (c : PortCall) (s : State) : (logCall c s).responses = s.responses := rfl
@[simp] theorem logCall_calls (c : PortCall) (s : State) : (logCall c s).calls = c :: s.calls := rfl

@[simp] theorem enterFault_bsize (x : FaultClass) (s : State) : (enterFault x s).bsize = s.bsize := rfl
@[simp] theorem enterFault_nonce (x : FaultClass) (s : State) : (enterFault x s).nonce = s.nonce := rfl
@[simp] theorem enterFault_cw (x : FaultClass) (s : State) : (enterFault x s).cw = s.cw := rfl
@[simp] theorem enterFault_iv (x : FaultClass) (s : State) : (enterFault x s).iv = s.iv := rfl
@[simp] theorem enterFault_header (x : FaultClass) (s : State) : (enterFault x s).header = s.header := rfl
@[simp] theorem enterFault_hlenCfg (x : FaultClass) (s : State) : (enterFault x s).hlenCfg = s.hlenCfg := rfl
@[simp] theorem enterFault_poly (x : FaultClass) (s : State) : (enterFault x s).poly = s.poly := rfl
@[simp] theorem enterFault_mode (x : FaultClass) (s : State) : (enterFault x s).mode = s.mode := rfl
@[simp] theorem enterFault_dir (x : FaultClass) (s : State) : (enterFault x s).dir = s.dir := rfl
@[simp] theorem enterFault_phase (x : FaultClass) (s : State) : (enterFault x s).phase = .faulted := rfl
@[simp] theorem enterFault_fault (x : FaultClass) (s : State) : (enterFault x s).fault = some x := rfl
@[simp] theorem enterFault_verify (x : FaultClass) (s : State) : (enterFault x s).verify = s.verify := rfl
@[simp] theorem enterFault_cv (x : FaultClass) (s : State) : (enterFault x s).cv = none := rfl
@[simp] theorem enterFault_ctr (x : FaultClass) (s : State) : (enterFault x s).ctr = none := rfl
@[simp] theorem enterFault_acc (x : FaultClass) (s : State) : (enterFault x s).acc = none := rfl
@[simp] theorem enterFault_h (x : FaultClass) (s : State) : (enterFault x s).h = none := rfl
@[simp] theorem enterFault_ek (x : FaultClass) (s : State) : (enterFault x s).ek = none := rfl
@[simp] theorem enterFault_blkcnt (x : FaultClass) (s : State) : (enterFault x s).blkcnt = none := rfl
@[simp] theorem enterFault_hlen (x : FaultClass) (s : State) : (enterFault x s).hlen = none := rfl
@[simp] theorem enterFault_seq (x : FaultClass) (s : State) : (enterFault x s).seq = s.seq := rfl
@[simp] theorem enterFault_src (x : FaultClass) (s : State) : (enterFault x s).src = s.src := rfl
@[simp] theorem enterFault_sources (x : FaultClass) (s : State) : (enterFault x s).sources = s.sources := rfl
@[simp] theorem enterFault_drawn (x : FaultClass) (s : State) : (enterFault x s).drawn = s.drawn := rfl
@[simp] theorem enterFault_pending (x : FaultClass) (s : State) : (enterFault x s).pending = s.pending := rfl
@[simp] theorem enterFault_responses (x : FaultClass) (s : State) : (enterFault x s).responses = .fault x :: s.responses := rfl
@[simp] theorem enterFault_calls (x : FaultClass) (s : State) : (enterFault x s).calls = s.calls := rfl

@[simp] theorem attachSource_bsize (s : State) : (attachSource s).bsize = s.bsize := rfl
@[simp] theorem attachSource_nonce (s : State) : (attachSource s).nonce = s.nonce := rfl
@[simp] theorem attachSource_cw (s : State) : (attachSource s).cw = s.cw := rfl
@[simp] theorem attachSource_iv (s : State) : (attachSource s).iv = s.iv := rfl
@[simp] theorem attachSource_header (s : State) : (attachSource s).header = s.header := rfl
@[simp] theorem attachSource_hlenCfg (s : State) : (attachSource s).hlenCfg = s.hlenCfg := rfl
@[simp] theorem attachSource_poly (s : State) : (attachSource s).poly = s.poly := rfl
@[simp] theorem attachSource_mode (s : State) : (attachSource s).mode = s.mode := rfl
@[simp] theorem attachSource_dir (s : State) : (attachSource s).dir = s.dir := rfl
@[simp] theorem attachSource_phase (s : State) : (attachSource s).phase = s.phase := rfl
@[simp] theorem attachSource_fault (s : State) : (attachSource s).fault = s.fault := rfl
@[simp] theorem attachSource_verify (s : State) : (attachSource s).verify = s.verify := rfl
@[simp] theorem attachSource_cv (s : State) : (attachSource s).cv = s.cv := rfl
@[simp] theorem attachSource_ctr (s : State) : (attachSource s).ctr = s.ctr := rfl
@[simp] theorem attachSource_acc (s : State) : (attachSource s).acc = s.acc := rfl
@[simp] theorem attachSource_h (s : State) : (attachSource s).h = s.h := rfl
@[simp] theorem attachSource_ek (s : State) : (attachSource s).ek = s.ek := rfl
@[simp] theorem attachSource_blkcnt (s : State) : (attachSource s).blkcnt = s.blkcnt := rfl
@[simp] theorem attachSource_hlen (s : State) : (attachSource s).hlen = s.hlen := rfl
@[simp] theorem attachSource_seq (s : State) : (attachSource s).seq = s.seq := rfl
@[simp] theorem attachSource_src (s : State) : (attachSource s).src = s.sources.head? := rfl
@[simp] theorem attachSource_sources (s : State) : (attachSource s).sources = s.sources.tail := rfl
@[simp] theorem attachSource_drawn (s : State) : (attachSource s).drawn = s.drawn := rfl
@[simp] theorem attachSource_pending (s : State) : (attachSource s).pending = s.pending := rfl
@[simp] theorem attachSource_responses (s : State) : (attachSource s).responses = s.responses := rfl
@[simp] theorem attachSource_calls (s : State) : (attachSource s).calls = s.calls := rfl

@[simp] theorem clearSession_bsize (s : State) : (clearSession s).bsize = s.bsize := rfl
@[simp] theorem clearSession_nonce (s : State) : (clearSession s).nonce = s.nonce := rfl
@[simp] theorem clearSession_cw (s : State) : (clearSession s).cw = s.cw := rfl
@[simp] theorem clearSession_iv (s : State) : (clearSession s).iv = s.iv := rfl
@[simp] theorem clearSession_header (s : State) : (clearSession s).header = s.header := rfl
@[simp] theorem clearSession_hlenCfg (s : State) : (clearSession s).hlenCfg = s.hlenCfg := rfl
@[simp] theorem clearSession_poly (s : State) : (clearSession s).poly = s.poly := rfl
@[simp] theorem clearSession_mode (s : State) : (clearSession s).mode = none := rfl
@[simp] theorem clearSession_dir (s : State) : (clearSession s).dir = none := rfl
@[simp] theorem clearSession_phase (s : State) : (clearSession s).phase = .idle := rfl
@[simp] theorem clearSession_fault (s : State) : (clearSession s).fault = none := rfl
@[simp] theorem clearSession_verify (s : State) : (clearSession s).verify = Verify.clear := rfl
@[simp] theorem clearSession_cv (s : State) : (clearSession s).cv = none := rfl
@[simp] theorem clearSession_ctr (s : State) : (clearSession s).ctr = none := rfl
@[simp] theorem clearSession_acc (s : State) : (clearSession s).acc = none := rfl
@[simp] theorem clearSession_h (s : State) : (clearSession s).h = none := rfl
@[simp] theorem clearSession_ek (s : State) : (clearSession s).ek = none := rfl
@[simp] theorem clearSession_blkcnt (s : State) : (clearSession s).blkcnt = none := rfl
@[simp] theorem clearSession_hlen (s : State) : (clearSession s).hlen = none := rfl
@[simp] theorem clearSession_seq (s : State) : (clearSession s).seq = .unprimed := rfl
@[simp] theorem clearSession_src (s : State) : (clearSession s).src = s.sources.head? := rfl
@[simp] theorem clearSession_sources (s : State) : (clearSession s).sources = s.sources.tail := rfl
@[simp] theorem clearSession_drawn (s : State) : (clearSession s).drawn = s.drawn := rfl
@[simp] theorem clearSession_pending (s : State) : (clearSession s).pending = s.pending := rfl
@[simp] theorem clearSession_responses (s : State) : (clearSession s).responses = s.responses := rfl
@[simp] theorem clearSession_calls (s : State) : (clearSession s).calls = s.calls := rfl

@[simp] theorem setSeq_bsize (q : Sequencer) (s : State) : (setSeq q s).bsize = s.bsize := rfl
@[simp] theorem setSeq_nonce (q : Sequencer) (s : State) : (setSeq q s).nonce = s.nonce := rfl
@[simp] theorem setSeq_cw (q : Sequencer) (s : State) : (setSeq q s).cw = s.cw := rfl
@[simp] theorem setSeq_iv (q : Sequencer) (s : State) : (setSeq q s).iv = s.iv := rfl
@[simp] theorem setSeq_header (q : Sequencer) (s : State) : (setSeq q s).header = s.header := rfl
@[simp] theorem setSeq_hlenCfg (q : Sequencer) (s : State) : (setSeq q s).hlenCfg = s.hlenCfg := rfl
@[simp] theorem setSeq_poly (q : Sequencer) (s : State) : (setSeq q s).poly = s.poly := rfl
@[simp] theorem setSeq_mode (q : Sequencer) (s : State) : (setSeq q s).mode = s.mode := rfl
@[simp] theorem setSeq_dir (q : Sequencer) (s : State) : (setSeq q s).dir = s.dir := rfl
@[simp] theorem setSeq_phase (q : Sequencer) (s : State) : (setSeq q s).phase = s.phase := rfl
@[simp] theorem setSeq_fault (q : Sequencer) (s : State) : (setSeq q s).fault = s.fault := rfl
@[simp] theorem setSeq_verify (q : Sequencer) (s : State) : (setSeq q s).verify = s.verify := rfl
@[simp] theorem setSeq_cv (q : Sequencer) (s : State) : (setSeq q s).cv = s.cv := rfl
@[simp] theorem setSeq_ctr (q : Sequencer) (s : State) : (setSeq q s).ctr = s.ctr := rfl
@[simp] theorem setSeq_acc (q : Sequencer) (s : State) : (setSeq q s).acc = s.acc := rfl
@[simp] theorem setSeq_h (q : Sequencer) (s : State) : (setSeq q s).h = s.h := rfl
@[simp] theorem setSeq_ek (q : Sequencer) (s : State) : (setSeq q s).ek = s.ek := rfl
@[simp] theorem setSeq_blkcnt (q : Sequencer) (s : State) : (setSeq q s).blkcnt = s.blkcnt := rfl
@[simp] theorem setSeq_hlen (q : Sequencer) (s : State) : (setSeq q s).hlen = s.hlen := rfl
@[simp] theorem setSeq_seq (q : Sequencer) (s : State) : (setSeq q s).seq = q := rfl
@[simp] theorem setSeq_src (q : Sequencer) (s : State) : (setSeq q s).src = s.src := rfl
@[simp] theorem setSeq_sources (q : Sequencer) (s : State) : (setSeq q s).sources = s.sources := rfl
@[simp] theorem setSeq_drawn (q : Sequencer) (s : State) : (setSeq q s).drawn = s.drawn := rfl
@[simp] theorem setSeq_pending (q : Sequencer) (s : State) : (setSeq q s).pending = s.pending := rfl
@[simp] theorem setSeq_responses (q : Sequencer) (s : State) : (setSeq q s).responses = s.responses := rfl
@[simp] theorem setSeq_calls (q : Sequencer) (s : State) : (setSeq q s).calls = s.calls := rfl

@[simp] theorem setPhase_bsize (p : Phase) (s : State) : (setPhase p s).bsize = s.bsize := rfl
@[simp] theorem setPhase_nonce (p : Phase) (s : State) : (setPhase p s).nonce = s.nonce := rfl
@[simp] theorem setPhase_cw (p : Phase) (s : State) : (setPhase p s).cw = s.cw := rfl
@[simp] theorem setPhase_iv (p : Phase) (s : State) : (setPhase p s).iv = s.iv := rfl
@[simp] theorem setPhase_header (p : Phase) (s : State) : (setPhase p s).header = s.header := rfl
@[simp] theorem setPhase_hlenCfg (p : Phase) (s : State) : (setPhase p s).hlenCfg = s.hlenCfg := rfl
@[simp] theorem setPhase_poly (p : Phase) (s : State) : (setPhase p s).poly = s.poly := rfl
@[simp] theorem setPhase_mode (p : Phase) (s : State) : (setPhase p s).mode = s.mode := rfl
@[simp] theorem setPhase_dir (p : Phase) (s : State) : (setPhase p s).dir = s.dir := rfl
@[simp] theorem setPhase_phase (p : Phase) (s : State) : (setPhase p s).phase = p := rfl
@[simp] theorem setPhase_fault (p : Phase) (s : State) : (setPhase p s).fault = s.fault := rfl
@[simp] theorem setPhase_verify (p : Phase) (s : State) : (setPhase p s).verify = s.verify := rfl
@[simp] theorem setPhase_cv (p : Phase) (s : State) : (setPhase p s).cv = s.cv := rfl
@[simp] theorem setPhase_ctr (p : Phase) (s : State) : (setPhase p s).ctr = s.ctr := rfl
@[simp] theorem setPhase_acc (p : Phase) (s : State) : (setPhase p s).acc = s.acc := rfl
@[simp] theorem setPhase_h (p : Phase) (s : State) : (setPhase p s).h = s.h := rfl
@[simp] theorem setPhase_ek (p : Phase) (s : State) : (setPhase p s).ek = s.ek := rfl
@[simp] theorem setPhase_blkcnt (p : Phase) (s : State) : (setPhase p s).blkcnt = s.blkcnt := rfl
@[simp] theorem setPhase_hlen (p : Phase) (s : State) : (setPhase p s).hlen = s.hlen := rfl
@[simp] theorem setPhase_seq (p : Phase) (s : State) : (setPhase p s).seq = s.seq := rfl
@[simp] theorem setPhase_src (p : Phase) (s : State) : (setPhase p s).src = s.src := rfl
@[simp] theorem setPhase_sources (p : Phase) (s : State) : (setPhase p s).sources = s.sources := rfl
@[simp] theorem setPhase_drawn (p : Phase) (s : State) : (setPhase p s).drawn = s.drawn := rfl
@[simp] theorem setPhase_pending (p : Phase) (s : State) : (setPhase p s).pending = s.pending := rfl
@[simp] theorem setPhase_responses (p : Phase) (s : State) : (setPhase p s).responses = s.responses := rfl
@[simp] theorem setPhase_calls (p : Phase) (s : State) : (setPhase p s).calls = s.calls := rfl

@[simp] theorem setCv_bsize (x : Option Bytes) (s : State) : (setCv x s).bsize = s.bsize := rfl
@[simp] theorem setCv_nonce (x : Option Bytes) (s : State) : (setCv x s).nonce = s.nonce := rfl
@[simp] theorem setCv_cw (x : Option Bytes) (s : State) : (setCv x s).cw = s.cw := rfl
@[simp] theorem setCv_iv (x : Option Bytes) (s : State) : (setCv x s).iv = s.iv := rfl
@[simp] theorem setCv_header (x : Option Bytes) (s : State) : (setCv x s).header = s.header := rfl
@[simp] theorem setCv_hlenCfg (x : Option Bytes) (s : State) : (setCv x s).hlenCfg = s.hlenCfg := rfl
@[simp] theorem setCv_poly (x : Option Bytes) (s : State) : (setCv x s).poly = s.poly := rfl
@[simp] theorem setCv_mode (x : Option Bytes) (s : State) : (setCv x s).mode = s.mode := rfl
@[simp] theorem setCv_dir (x : Option Bytes) (s : State) : (setCv x s).dir = s.dir := rfl
@[simp] theorem setCv_phase (x : Option Bytes) (s : State) : (setCv x s).phase = s.phase := rfl
@[simp] theorem setCv_fault (x : Option Bytes) (s : State) : (setCv x s).fault = s.fault := rfl
@[simp] theorem setCv_verify (x : Option Bytes) (s : State) : (setCv x s).verify = s.verify := rfl
@[simp] theorem setCv_cv (x : Option Bytes) (s : State) : (setCv x s).cv = x := rfl
@[simp] theorem setCv_ctr (x : Option Bytes) (s : State) : (setCv x s).ctr = s.ctr := rfl
@[simp] theorem setCv_acc (x : Option Bytes) (s : State) : (setCv x s).acc = s.acc := rfl
@[simp] theorem setCv_h (x : Option Bytes) (s : State) : (setCv x s).h = s.h := rfl
@[simp] theorem setCv_ek (x : Option Bytes) (s : State) : (setCv x s).ek = s.ek := rfl
@[simp] theorem setCv_blkcnt (x : Option Bytes) (s : State) : (setCv x s).blkcnt = s.blkcnt := rfl
@[simp] theorem setCv_hlen (x : Option Bytes) (s : State) : (setCv x s).hlen = s.hlen := rfl
@[simp] theorem setCv_seq (x : Option Bytes) (s : State) : (setCv x s).seq = s.seq := rfl
@[simp] theorem setCv_src (x : Option Bytes) (s : State) : (setCv x s).src = s.src := rfl
@[simp] theorem setCv_sources (x : Option Bytes) (s : State) : (setCv x s).sources = s.sources := rfl
@[simp] theorem setCv_drawn (x : Option Bytes) (s : State) : (setCv x s).drawn = s.drawn := rfl
@[simp] theorem setCv_pending (x : Option Bytes) (s : State) : (setCv x s).pending = s.pending := rfl
@[simp] theorem setCv_responses (x : Option Bytes) (s : State) : (setCv x s).responses = s.responses := rfl
@[simp] theorem setCv_calls (x : Option Bytes) (s : State) : (setCv x s).calls = s.calls := rfl

@[simp] theorem setCtr_bsize (c : Nat) (s : State) : (setCtr c s).bsize = s.bsize := rfl
@[simp] theorem setCtr_nonce (c : Nat) (s : State) : (setCtr c s).nonce = s.nonce := rfl
@[simp] theorem setCtr_cw (c : Nat) (s : State) : (setCtr c s).cw = s.cw := rfl
@[simp] theorem setCtr_iv (c : Nat) (s : State) : (setCtr c s).iv = s.iv := rfl
@[simp] theorem setCtr_header (c : Nat) (s : State) : (setCtr c s).header = s.header := rfl
@[simp] theorem setCtr_hlenCfg (c : Nat) (s : State) : (setCtr c s).hlenCfg = s.hlenCfg := rfl
@[simp] theorem setCtr_poly (c : Nat) (s : State) : (setCtr c s).poly = s.poly := rfl
@[simp] theorem setCtr_mode (c : Nat) (s : State) : (setCtr c s).mode = s.mode := rfl
@[simp] theorem setCtr_dir (c : Nat) (s : State) : (setCtr c s).dir = s.dir := rfl
@[simp] theorem setCtr_phase (c : Nat) (s : State) : (setCtr c s).phase = s.phase := rfl
@[simp] theorem setCtr_fault (c : Nat) (s : State) : (setCtr c s).fault = s.fault := rfl
@[simp] theorem setCtr_verify (c : Nat) (s : State) : (setCtr c s).verify = s.verify := rfl
@[simp] theorem setCtr_cv (c : Nat) (s : State) : (setCtr c s).cv = s.cv := rfl
@[simp] theorem setCtr_ctr (c : Nat) (s : State) : (setCtr c s).ctr = some c := rfl
@[simp] theorem setCtr_acc (c : Nat) (s : State) : (setCtr c s).acc = s.acc := rfl
@[simp] theorem setCtr_h (c : Nat) (s : State) : (setCtr c s).h = s.h := rfl
@[simp] theorem setCtr_ek (c : Nat) (s : State) : (setCtr c s).ek = s.ek := rfl
@[simp] theorem setCtr_blkcnt (c : Nat) (s : State) : (setCtr c s).blkcnt = s.blkcnt := rfl
@[simp] theorem setCtr_hlen (c : Nat) (s : State) : (setCtr c s).hlen = s.hlen := rfl
@[simp] theorem setCtr_seq (c : Nat) (s : State) : (setCtr c s).seq = s.seq := rfl
@[simp] theorem setCtr_src (c : Nat) (s : State) : (setCtr c s).src = s.src := rfl
@[simp] theorem setCtr_sources (c : Nat) (s : State) : (setCtr c s).sources = s.sources := rfl
@[simp] theorem setCtr_drawn (c : Nat) (s : State) : (setCtr c s).drawn = s.drawn := rfl
@[simp] theorem setCtr_pending (c : Nat) (s : State) : (setCtr c s).pending = s.pending := rfl
@[simp] theorem setCtr_responses (c : Nat) (s : State) : (setCtr c s).responses = s.responses := rfl
@[simp] theorem setCtr_calls (c : Nat) (s : State) : (setCtr c s).calls = s.calls := rfl

@[simp] theorem setAcc_bsize (x : Elem) (s : State) : (setAcc x s).bsize = s.bsize := rfl
@[simp] theorem setAcc_nonce (x : Elem) (s : State) : (setAcc x s).nonce = s.nonce := rfl
@[simp] theorem setAcc_cw (x : Elem) (s : State) : (setAcc x s).cw = s.cw := rfl
@[simp] theorem setAcc_iv (x : Elem) (s : State) : (setAcc x s).iv = s.iv := rfl
@[simp] theorem setAcc_header (x : Elem) (s : State) : (setAcc x s).header = s.header := rfl
@[simp] theorem setAcc_hlenCfg (x : Elem) (s : State) : (setAcc x s).hlenCfg = s.hlenCfg := rfl
@[simp] theorem setAcc_poly (x : Elem) (s : State) : (setAcc x s).poly = s.poly := rfl
@[simp] theorem setAcc_mode (x : Elem) (s : State) : (setAcc x s).mode = s.mode := rfl
@[simp] theorem setAcc_dir (x : Elem) (s : State) : (setAcc x s).dir = s.dir := rfl
@[simp] theorem setAcc_phase (x : Elem) (s : State) : (setAcc x s).phase = s.phase := rfl
@[simp] theorem setAcc_fault (x : Elem) (s : State) : (setAcc x s).fault = s.fault := rfl
@[simp] theorem setAcc_verify (x : Elem) (s : State) : (setAcc x s).verify = s.verify := rfl
@[simp] theorem setAcc_cv (x : Elem) (s : State) : (setAcc x s).cv = s.cv := rfl
@[simp] theorem setAcc_ctr (x : Elem) (s : State) : (setAcc x s).ctr = s.ctr := rfl
@[simp] theorem setAcc_acc (x : Elem) (s : State) : (setAcc x s).acc = some x := rfl
@[simp] theorem setAcc_h (x : Elem) (s : State) : (setAcc x s).h = s.h := rfl
@[simp] theorem setAcc_ek (x : Elem) (s : State) : (setAcc x s).ek = s.ek := rfl
@[simp] theorem setAcc_blkcnt (x : Elem) (s : State) : (setAcc x s).blkcnt = s.blkcnt := rfl
@[simp] theorem setAcc_hlen (x : Elem) (s : State) : (setAcc x s).hlen = s.hlen := rfl
@[simp] theorem setAcc_seq (x : Elem) (s : State) : (setAcc x s).seq = s.seq := rfl
@[simp] theorem setAcc_src (x : Elem) (s : State) : (setAcc x s).src = s.src := rfl
@[simp] theorem setAcc_sources (x : Elem) (s : State) : (setAcc x s).sources = s.sources := rfl
@[simp] theorem setAcc_drawn (x : Elem) (s : State) : (setAcc x s).drawn = s.drawn := rfl
@[simp] theorem setAcc_pending (x : Elem) (s : State) : (setAcc x s).pending = s.pending := rfl
@[simp] theorem setAcc_responses (x : Elem) (s : State) : (setAcc x s).responses = s.responses := rfl
@[simp] theorem setAcc_calls (x : Elem) (s : State) : (setAcc x s).calls = s.calls := rfl

@[simp] theorem setBlkcnt_bsize (c : Nat) (s : State) : (setBlkcnt c s).bsize = s.bsize := rfl
@[simp] theorem setBlkcnt_nonce (c : Nat) (s : State) : (setBlkcnt c s).nonce = s.nonce := rfl
@[simp] theorem setBlkcnt_cw (c : Nat) (s : State) : (setBlkcnt c s).cw = s.cw := rfl
@[simp] theorem setBlkcnt_iv (c : Nat) (s : State) : (setBlkcnt c s).iv = s.iv := rfl
@[simp] theorem setBlkcnt_header (c : Nat) (s : State) : (setBlkcnt c s).header = s.header := rfl
@[simp] theorem setBlkcnt_hlenCfg (c : Nat) (s : State) : (setBlkcnt c s).hlenCfg = s.hlenCfg := rfl
@[simp] theorem setBlkcnt_poly (c : Nat) (s : State) : (setBlkcnt c s).poly = s.poly := rfl
@[simp] theorem setBlkcnt_mode (c : Nat) (s : State) : (setBlkcnt c s).mode = s.mode := rfl
@[simp] theorem setBlkcnt_dir (c : Nat) (s : State) : (setBlkcnt c s).dir = s.dir := rfl
@[simp] theorem setBlkcnt_phase (c : Nat) (s : State) : (setBlkcnt c s).phase = s.phase := rfl
@[simp] theorem setBlkcnt_fault (c : Nat) (s : State) : (setBlkcnt c s).fault = s.fault := rfl
@[simp] theorem setBlkcnt_verify (c : Nat) (s : State) : (setBlkcnt c s).verify = s.verify := rfl
@[simp] theorem setBlkcnt_cv (c : Nat) (s : State) : (setBlkcnt c s).cv = s.cv := rfl
@[simp] theorem setBlkcnt_ctr (c : Nat) (s : State) : (setBlkcnt c s).ctr = s.ctr := rfl
@[simp] theorem setBlkcnt_acc (c : Nat) (s : State) : (setBlkcnt c s).acc = s.acc := rfl
@[simp] theorem setBlkcnt_h (c : Nat) (s : State) : (setBlkcnt c s).h = s.h := rfl
@[simp] theorem setBlkcnt_ek (c : Nat) (s : State) : (setBlkcnt c s).ek = s.ek := rfl
@[simp] theorem setBlkcnt_blkcnt (c : Nat) (s : State) : (setBlkcnt c s).blkcnt = some c := rfl
@[simp] theorem setBlkcnt_hlen (c : Nat) (s : State) : (setBlkcnt c s).hlen = s.hlen := rfl
@[simp] theorem setBlkcnt_seq (c : Nat) (s : State) : (setBlkcnt c s).seq = s.seq := rfl
@[simp] theorem setBlkcnt_src (c : Nat) (s : State) : (setBlkcnt c s).src = s.src := rfl
@[simp] theorem setBlkcnt_sources (c : Nat) (s : State) : (setBlkcnt c s).sources = s.sources := rfl
@[simp] theorem setBlkcnt_drawn (c : Nat) (s : State) : (setBlkcnt c s).drawn = s.drawn := rfl
@[simp] theorem setBlkcnt_pending (c : Nat) (s : State) : (setBlkcnt c s).pending = s.pending := rfl
@[simp] theorem setBlkcnt_responses (c : Nat) (s : State) : (setBlkcnt c s).responses = s.responses := rfl
@[simp] theorem setBlkcnt_calls (c : Nat) (s : State) : (setBlkcnt c s).calls = s.calls := rfl

@[simp] theorem setVerify_bsize (v : Verify) (s : State) : (setVerify v s).bsize = s.bsize := rfl
@[simp] theorem setVerify_nonce (v : Verify) (s : State) : (setVerify v s).nonce = s.nonce := rfl
@[simp] theorem setVerify_cw (v : Verify) (s : State) : (setVerify v s).cw = s.cw := rfl
@[simp] theorem setVerify_iv (v : Verify) (s : State) : (setVerify v s).iv = s.iv := rfl
@[simp] theorem setVerify_header (v : Verify) (s : State) : (setVerify v s).header = s.header := rfl
@[simp] theorem setVerify_hlenCfg (v : Verify) (s : State) : (setVerify v s).hlenCfg = s.hlenCfg := rfl
@[simp] theorem setVerify_poly (v : Verify) (s : State) : (setVerify v s).poly = s.poly := rfl
@[simp] theorem setVerify_mode (v : Verify) (s : State) : (setVerify v s).mode = s.mode := rfl
@[simp] theorem setVerify_dir (v : Verify) (s : State) : (setVerify v s).dir = s.dir := rfl
@[simp] theorem setVerify_phase (v : Verify) (s : State) : (setVerify v s).phase = s.phase := rfl
@[simp] theorem setVerify_fault (v : Verify) (s : State) : (setVerify v s).fault = s.fault := rfl
@[simp] theorem setVerify_verify (v : Verify) (s : State) : (setVerify v s).verify = v := rfl
@[simp] theorem setVerify_cv (v : Verify) (s : State) : (setVerify v s).cv = s.cv := rfl
@[simp] theorem setVerify_ctr (v : Verify) (s : State) : (setVerify v s).ctr = s.ctr := rfl
@[simp] theorem setVerify_acc (v : Verify) (s : State) : (setVerify v s).acc = s.acc := rfl
@[simp] theorem setVerify_h (v : Verify) (s : State) : (setVerify v s).h = s.h := rfl
@[simp] theorem setVerify_ek (v : Verify) (s : State) : (setVerify v s).ek = s.ek := rfl
@[simp] theorem setVerify_blkcnt (v : Verify) (s : State) : (setVerify v s).blkcnt = s.blkcnt := rfl
@[simp] theorem setVerify_hlen (v : Verify) (s : State) : (setVerify v s).hlen = s.hlen := rfl
@[simp] theorem setVerify_seq (v : Verify) (s : State) : (setVerify v s).seq = s.seq := rfl
@[simp] theorem setVerify_src (v : Verify) (s : State) : (setVerify v s).src = s.src := rfl
@[simp] theorem setVerify_sources (v : Verify) (s : State) : (setVerify v s).sources = s.sources := rfl
@[simp] theorem setVerify_drawn (v : Verify) (s : State) : (setVerify v s).drawn = s.drawn := rfl
@[simp] theorem setVerify_pending (v : Verify) (s : State) : (setVerify v s).pending = s.pending := rfl
@[simp] theorem setVerify_responses (v : Verify) (s : State) : (setVerify v s).responses = s.responses := rfl
@[simp] theorem setVerify_calls (v : Verify) (s : State) : (setVerify v s).calls = s.calls := rfl

@[simp] theorem setKind_bsize (m : Mode) (d : Dir) (s : State) : (setKind m d s).bsize = s.bsize := rfl
@[simp] theorem setKind_nonce (m : Mode) (d : Dir) (s : State) : (setKind m d s).nonce = s.nonce := rfl
@[simp] theorem setKind_cw (m : Mode) (d : Dir) (s : State) : (setKind m d s).cw = s.cw := rfl
@[simp] theorem setKind_iv (m : Mode) (d : Dir) (s : State) : (setKind m d s).iv = s.iv := rfl
@[simp] theorem setKind_header (m : Mode) (d : Dir) (s : State) : (setKind m d s).header = s.header := rfl
@[simp] theorem setKind_hlenCfg (m : Mode) (d : Dir) (s : State) : (setKind m d s).hlenCfg = s.hlenCfg := rfl
@[simp] theorem setKind_poly (m : Mode) (d : Dir) (s : State) : (setKind m d s).poly = s.poly := rfl
@[simp] theorem setKind_mode (m : Mode) (d : Dir) (s : State) : (setKind m d s).mode = some m := rfl
@[simp] theorem setKind_dir (m : Mode) (d : Dir) (s : State) : (setKind m d s).dir = some d := rfl
@[simp] theorem setKind_phase (m : Mode) (d : Dir) (s : State) : (setKind m d s).phase = s.phase := rfl
@[simp] theorem setKind_fault (m : Mode) (d : Dir) (s : State) : (setKind m d s).fault = s.fault := rfl
@[simp] theorem setKind_verify (m : Mode) (d : Dir) (s : State) : (setKind m d s).verify = s.verify := rfl
@[simp] theorem setKind_cv (m : Mode) (d : Dir) (s : State) : (setKind m d s).cv = s.cv := rfl
@[simp] theorem setKind_ctr (m : Mode) (d : Dir) (s : State) : (setKind m d s).ctr = s.ctr := rfl
@[simp] theorem setKind_acc (m : Mode) (d : Dir) (s : State) : (setKind m d s).acc = s.acc := rfl
@[simp] theorem setKind_h (m : Mode) (d : Dir) (s : State) : (setKind m d s).h = s.h := rfl
@[simp] theorem setKind_ek (m : Mode) (d : Dir) (s : State) : (setKind m d s).ek = s.ek := rfl
@[simp] theorem setKind_blkcnt (m : Mode) (d : Dir) (s : State) : (setKind m d s).blkcnt = s.blkcnt := rfl
@[simp] theorem setKind_hlen (m : Mode) (d : Dir) (s : State) : (setKind m d s).hlen = s.hlen := rfl
@[simp] theorem setKind_seq (m : Mode) (d : Dir) (s : State) : (setKind m d s).seq = s.seq := rfl
@[simp] theorem setKind_src (m : Mode) (d : Dir) (s : State) : (setKind m d s).src = s.src := rfl
@[simp] theorem setKind_sources (m : Mode) (d : Dir) (s : State) : (setKind m d s).sources = s.sources := rfl
@[simp] theorem setKind_drawn (m : Mode) (d : Dir) (s : State) : (setKind m d s).drawn = s.drawn := rfl
@[simp] theorem setKind_pending (m : Mode) (d : Dir) (s : State) : (setKind m d s).pending = s.pending := rfl
@[simp] theorem setKind_responses (m : Mode) (d : Dir) (s : State) : (setKind m d s).responses = s.responses := rfl
@[simp] theorem setKind_calls (m : Mode) (d : Dir) (s : State) : (setKind m d s).calls = s.calls := rfl

@[simp] theorem afterSrcNext_bsize (s : State) : (afterSrcNext s).bsize = s.bsize := rfl
@[simp] theorem afterSrcNext_nonce (s : State) : (afterSrcNext s).nonce = s.nonce := rfl
@[simp] theorem afterSrcNext_cw (s : State) : (afterSrcNext s).cw = s.cw := rfl
@[simp] theorem afterSrcNext_iv (s : State) : (afterSrcNext s).iv = s.iv := rfl
@[simp] theorem afterSrcNext_header (s : State) : (afterSrcNext s).header = s.header := rfl
@[simp] theorem afterSrcNext_hlenCfg (s : State) : (afterSrcNext s).hlenCfg = s.hlenCfg := rfl
@[simp] theorem afterSrcNext_poly (s : State) : (afterSrcNext s).poly = s.poly := rfl
@[simp] theorem afterSrcNext_mode (s : State) : (afterSrcNext s).mode = s.mode := rfl
@[simp] theorem afterSrcNext_dir (s : State) : (afterSrcNext s).dir = s.dir := rfl
@[simp] theorem afterSrcNext_phase (s : State) : (afterSrcNext s).phase = s.phase := rfl
@[simp] theorem afterSrcNext_fault (s : State) : (afterSrcNext s).fault = s.fault := rfl
@[simp] theorem afterSrcNext_verify (s : State) : (afterSrcNext s).verify = s.verify := rfl
@[simp] theorem afterSrcNext_cv (s : State) : (afterSrcNext s).cv = s.cv := rfl
@[simp] theorem afterSrcNext_ctr (s : State) : (afterSrcNext s).ctr = s.ctr := rfl
@[simp] theorem afterSrcNext_acc (s : State) : (afterSrcNext s).acc = s.acc := rfl
@[simp] theorem afterSrcNext_h (s : State) : (afterSrcNext s).h = s.h := rfl
@[simp] theorem afterSrcNext_ek (s : State) : (afterSrcNext s).ek = s.ek := rfl
@[simp] theorem afterSrcNext_blkcnt (s : State) : (afterSrcNext s).blkcnt = s.blkcnt := rfl
@[simp] theorem afterSrcNext_hlen (s : State) : (afterSrcNext s).hlen = s.hlen := rfl
@[simp] theorem afterSrcNext_seq (s : State) : (afterSrcNext s).seq = s.seq := rfl
@[simp] theorem afterSrcNext_src (s : State) : (afterSrcNext s).src = some (sourceNext (attachedSource s)).2 := rfl
@[simp] theorem afterSrcNext_sources (s : State) : (afterSrcNext s).sources = s.sources := rfl
@[simp] theorem afterSrcNext_drawn (s : State) : (afterSrcNext s).drawn = if s.src.isNone then s.drawn + 1 else s.drawn := rfl
@[simp] theorem afterSrcNext_pending (s : State) : (afterSrcNext s).pending = s.pending := rfl
@[simp] theorem afterSrcNext_responses (s : State) : (afterSrcNext s).responses = s.responses := rfl
@[simp] theorem afterSrcNext_calls (s : State) : (afterSrcNext s).calls = .srcNext (srcAnswer s) :: s.calls := rfl

end Sys2Proof.Machine
end

