-- ==== Sys2Proof/Laws/Ops.lean ====
section
/-!
SUPPORT. What the shared operations can do, said once: the helpers of a step, the byte source, and `SeqNext()`.
-/

namespace Sys2Proof.Machine

/-! ### The helpers of a step -/

/-- A step that reads registers and answers a next state had a value in each of them. -/
theorem withRegs_next {α : Type} {x : Except Reg α} {body : α → Result} {t : State}
    (h : withRegs x body = .next t) : ∃ a, x = .ok a ∧ body a = .next t := by
  cases x with
  | ok a => exact ⟨a, rfl, h⟩
  | error r => cases h

/-- A step that uses a Field Engine operation either goes on with its value or takes its fault. -/
theorem withValue_next {α : Type} {x : Except FaultClass α} {s t : State} {body : α → Result}
    (h : withValue x s body = .next t) :
    (∃ a, x = .ok a ∧ body a = .next t) ∨ (∃ f, x = .error f ∧ t = enterFault f s) := by
  cases x with
  | ok a => exact .inl ⟨a, rfl, h⟩
  | error f => exact .inr ⟨f, rfl, by cases h; rfl⟩

@[simp] theorem withRegs_ok {α : Type} (a : α) (body : α → Result) : withRegs (.ok a) body = body a := rfl

@[simp] theorem withValue_ok {α : Type} (a : α) (s : State) (body : α → Result) :
    withValue (.ok a) s body = body a := rfl

@[simp] theorem withValue_error {α : Type} (f : FaultClass) (s : State) (body : α → Result) :
    withValue (.error f) s body = .next (enterFault f s) := rfl

@[simp] theorem need_some {α : Type} (r : Reg) (a : α) : need r (some a) = .ok a := rfl

@[simp] theorem configured_some {α : Type} (a : α) : configured (some a) = .ok a := rfl

@[simp] theorem configured_none {α : Type} : configured (none : Option α) = .error .configuration := rfl

theorem need_eq_ok {α : Type} {r : Reg} {x : Option α} {a : α} : need r x = .ok a ↔ x = some a := by
  cases x <;> simp [need]

/-! ### The byte source -/

/-- A source answers with its chunks in order, then with its end. -/
theorem sourceNext_cons (c : Bytes) (rest : List Bytes) (e : SourceEnd) :
    sourceNext ⟨c :: rest, e⟩ = (.chunk c, ⟨rest, e⟩) := rfl

theorem sourceNext_eof : sourceNext ⟨[], .eof⟩ = (.eof, ⟨[], .eof⟩) := rfl

theorem sourceNext_failure : sourceNext ⟨[], .failure⟩ = (.failure, ⟨[], .failure⟩) := rfl

/-- A clipped source obeys `SrcNext()`'s type. -/
theorem fitsBlock_clipSource (n : Nat) (src : Source) : fitsBlock n (clipSource n src) = true := by
  simp [fitsBlock, clipSource]

/-- Where the attached source is known to fit, or unknown, what the step reads fits. -/
theorem fitsBlock_attachedSource {s : State} (h : sourceFits s = true) :
    fitsBlock s.bsize (attachedSource s) = true := by
  unfold attachedSource
  unfold sourceFits at h
  cases hs : s.src with
  | none => simp [fitsBlock_clipSource]
  | some src => simpa [hs] using h

/-- What is left of a source that fits still fits. -/
theorem fitsBlock_sourceNext {n : Nat} {src : Source} (h : fitsBlock n src = true) :
    fitsBlock n (sourceNext src).2 = true := by
  obtain ⟨chunks, e⟩ := src
  cases chunks with
  | nil => cases e <;> exact h
  | cons c rest => simp_all [sourceNext_cons, fitsBlock]

/-- A chunk of a source that fits is at most one block. -/
theorem chunk_le_of_fitsBlock {n : Nat} {src : Source} {c : Bytes} (h : fitsBlock n src = true)
    (hc : (sourceNext src).1 = .chunk c) : c.length ≤ n := by
  obtain ⟨chunks, e⟩ := src
  cases chunks with
  | nil => cases e <;> simp [sourceNext] at hc
  | cons d rest => simp_all [sourceNext_cons, fitsBlock]

/-- `SrcNext()` keeps the source's type. -/
theorem sourceFits_afterSrcNext {s : State} (h : sourceFits s = true) : sourceFits (afterSrcNext s) = true := by
  simp [sourceFits, fitsBlock_sourceNext (fitsBlock_attachedSource h)]

theorem srcAnswer_chunk_le {s : State} {c : Bytes} (h : sourceFits s = true) (hc : srcAnswer s = .chunk c) :
    c.length ≤ s.bsize :=
  chunk_le_of_fitsBlock (fitsBlock_attachedSource h) hc

/-! ### `SeqNext()` -/

/-- What `SeqNext()` may write: the sequencer registers and the source's position, no other register. -/
theorem seqNext_frame (s : State) :
    ∃ q src d l, (seqNext s).1 = { s with seq := q, src := src, drawn := d, calls := l } := by
  have hq : ∀ (q : Sequencer) (u v : State), (∃ q src d l, u = { v with seq := q, src := src, drawn := d, calls := l }) →
      ∃ q' src d l, setSeq q (afterSrcNext u) = { v with seq := q', src := src, drawn := d, calls := l } := by
    rintro q _ v ⟨_, _, _, _, rfl⟩
    exact ⟨q, _, _, _, rfl⟩
  have h0 : ∃ q src d l, s = { s with seq := q, src := src, drawn := d, calls := l } := ⟨s.seq, s.src, s.drawn, s.calls, rfl⟩
  have hp : ∀ (la : Bytes) (u : State), (∃ q src d l, u = { s with seq := q, src := src, drawn := d, calls := l }) →
      ∃ q src d l, (seqNextPrimed la u).1 = { s with seq := q, src := src, drawn := d, calls := l } := by
    intro la u hu
    unfold seqNextPrimed
    split <;> exact hq _ u s hu
  unfold seqNext
  split
  · split
    · exact hq _ s s h0
    · exact hq _ s s h0
    · exact hp _ _ (hq _ s s h0)
  · exact hp _ s h0
  · exact h0
  · exact h0

@[simp] theorem seqNext_bsize (s : State) : (seqNext s).1.bsize = s.bsize := by
  obtain ⟨_, _, _, _, e⟩ := seqNext_frame s
  rw [e]

@[simp] theorem seqNext_nonce (s : State) : (seqNext s).1.nonce = s.nonce := by
  obtain ⟨_, _, _, _, e⟩ := seqNext_frame s
  rw [e]

@[simp] theorem seqNext_cw (s : State) : (seqNext s).1.cw = s.cw := by
  obtain ⟨_, _, _, _, e⟩ := seqNext_frame s
  rw [e]

@[simp] theorem seqNext_iv (s : State) : (seqNext s).1.iv = s.iv := by
  obtain ⟨_, _, _, _, e⟩ := seqNext_frame s
  rw [e]

@[simp] theorem seqNext_header (s : State) : (seqNext s).1.header = s.header := by
  obtain ⟨_, _, _, _, e⟩ := seqNext_frame s
  rw [e]

@[simp] theorem seqNext_hlenCfg (s : State) : (seqNext s).1.hlenCfg = s.hlenCfg := by
  obtain ⟨_, _, _, _, e⟩ := seqNext_frame s
  rw [e]

@[simp] theorem seqNext_poly (s : State) : (seqNext s).1.poly = s.poly := by
  obtain ⟨_, _, _, _, e⟩ := seqNext_frame s
  rw [e]

@[simp] theorem seqNext_mode (s : State) : (seqNext s).1.mode = s.mode := by
  obtain ⟨_, _, _, _, e⟩ := seqNext_frame s
  rw [e]

@[simp] theorem seqNext_dir (s : State) : (seqNext s).1.dir = s.dir := by
  obtain ⟨_, _, _, _, e⟩ := seqNext_frame s
  rw [e]

@[simp] theorem seqNext_phase (s : State) : (seqNext s).1.phase = s.phase := by
  obtain ⟨_, _, _, _, e⟩ := seqNext_frame s
  rw [e]

@[simp] theorem seqNext_fault (s : State) : (seqNext s).1.fault = s.fault := by
  obtain ⟨_, _, _, _, e⟩ := seqNext_frame s
  rw [e]

@[simp] theorem seqNext_verify (s : State) : (seqNext s).1.verify = s.verify := by
  obtain ⟨_, _, _, _, e⟩ := seqNext_frame s
  rw [e]

@[simp] theorem seqNext_cv (s : State) : (seqNext s).1.cv = s.cv := by
  obtain ⟨_, _, _, _, e⟩ := seqNext_frame s
  rw [e]

@[simp] theorem seqNext_ctr (s : State) : (seqNext s).1.ctr = s.ctr := by
  obtain ⟨_, _, _, _, e⟩ := seqNext_frame s
  rw [e]

@[simp] theorem seqNext_acc (s : State) : (seqNext s).1.acc = s.acc := by
  obtain ⟨_, _, _, _, e⟩ := seqNext_frame s
  rw [e]

@[simp] theorem seqNext_h (s : State) : (seqNext s).1.h = s.h := by
  obtain ⟨_, _, _, _, e⟩ := seqNext_frame s
  rw [e]

@[simp] theorem seqNext_ek (s : State) : (seqNext s).1.ek = s.ek := by
  obtain ⟨_, _, _, _, e⟩ := seqNext_frame s
  rw [e]

@[simp] theorem seqNext_blkcnt (s : State) : (seqNext s).1.blkcnt = s.blkcnt := by
  obtain ⟨_, _, _, _, e⟩ := seqNext_frame s
  rw [e]

@[simp] theorem seqNext_hlen (s : State) : (seqNext s).1.hlen = s.hlen := by
  obtain ⟨_, _, _, _, e⟩ := seqNext_frame s
  rw [e]

@[simp] theorem seqNext_sources (s : State) : (seqNext s).1.sources = s.sources := by
  obtain ⟨_, _, _, _, e⟩ := seqNext_frame s
  rw [e]

@[simp] theorem seqNext_pending (s : State) : (seqNext s).1.pending = s.pending := by
  obtain ⟨_, _, _, _, e⟩ := seqNext_frame s
  rw [e]

@[simp] theorem seqNext_responses (s : State) : (seqNext s).1.responses = s.responses := by
  obtain ⟨_, _, _, _, e⟩ := seqNext_frame s
  rw [e]

/-- What `SeqNext()` leaves in the sequencer, by what it gives (R112, R113). -/
theorem seqNext_seq (s : State) :
    match (seqNext s).2 with
    | .item _ true => (seqNext s).1.seq = .exhausted
    | .item _ false => ∃ la, (seqNext s).1.seq = .primed la
    | .failed => (seqNext s).1.seq = .failed
    | .finished => s.seq = .exhausted ∧ (seqNext s).1 = s := by
  have hp : ∀ (la : Bytes) (u : State),
      match (seqNextPrimed la u).2 with
      | .item _ true => (seqNextPrimed la u).1.seq = .exhausted
      | .item _ false => ∃ x, (seqNextPrimed la u).1.seq = .primed x
      | .failed => (seqNextPrimed la u).1.seq = .failed
      | .finished => False := by
    intro la u
    cases hu : srcAnswer u with
    | chunk d => simp [seqNextPrimed, hu, isLastOf]
    | eof => simp [seqNextPrimed, hu, isLastOf]
    | failure => simp [seqNextPrimed, hu]
  have up : ∀ (la : Bytes) (u : State), seqNext s = seqNextPrimed la u →
      match (seqNext s).2 with
      | .item _ true => (seqNext s).1.seq = .exhausted
      | .item _ false => ∃ x, (seqNext s).1.seq = .primed x
      | .failed => (seqNext s).1.seq = .failed
      | .finished => s.seq = .exhausted ∧ (seqNext s).1 = s := by
    intro la u e
    have := hp la u
    rw [e]
    split at this <;> simp_all
  cases hq : s.seq with
  | unprimed =>
    cases ha : srcAnswer s with
    | chunk c => exact hq ▸ up c (setSeq (.primed c) (afterSrcNext s)) (by simp [seqNext, hq, ha])
    | eof => simp [seqNext, hq, ha, isLastOf]
    | failure => simp [seqNext, hq, ha]
  | primed la => exact hq ▸ up la s (by simp [seqNext, hq])
  | exhausted => simp [seqNext, hq]
  | failed => simp [seqNext, hq]

/-- The types of `SeqNext()`: on a source that fits and a lookahead of at most a block, the item is at most a block, and
so is what is left. -/
theorem seqNext_fits {s : State} (hs : sourceFits s = true) (hl : ∀ la, s.seq = .primed la → la.length ≤ s.bsize) :
    sourceFits (seqNext s).1 = true ∧
    (∀ la, (seqNext s).1.seq = .primed la → la.length ≤ s.bsize) ∧
    (∀ c last, (seqNext s).2 = .item c last → c.length ≤ s.bsize) := by
  have h1 := sourceFits_afterSrcNext hs
  have hp : ∀ (la : Bytes) (u : State), u.bsize = s.bsize → sourceFits u = true → la.length ≤ s.bsize →
      sourceFits (seqNextPrimed la u).1 = true ∧
      (∀ x, (seqNextPrimed la u).1.seq = .primed x → x.length ≤ s.bsize) ∧
      (∀ c last, (seqNextPrimed la u).2 = .item c last → c.length ≤ s.bsize) := by
    intro la u hb hu hla
    have h2 := sourceFits_afterSrcNext hu
    unfold seqNextPrimed
    split
    · exact ⟨h2, by simp, by simp⟩
    · exact ⟨h2, by simp, by simp; omega⟩
    · rename_i d hd
      have := srcAnswer_chunk_le hu hd
      exact ⟨h2, by simp; omega, by simp; omega⟩
  unfold seqNext
  split
  · split
    · exact ⟨h1, by simp, by simp⟩
    · exact ⟨h1, by simp, by simp⟩
    · rename_i c hc
      exact hp c (setSeq (.primed c) (afterSrcNext s)) rfl h1 (srcAnswer_chunk_le hs hc)
  · rename_i la hla
    exact hp la s rfl hs (hl la hla)
  · rename_i hq
    exact ⟨hs, by simp [hq], by simp⟩
  · rename_i hq
    exact ⟨hs, by simp [hq], by simp⟩

/-- A mode step that takes an item and answers a next state either got one or takes the StreamError. -/
theorem withItem_next {s t : State} {body : State → Bytes → Bool → Result} (h : withItem s body = .next t) :
    sourceFits s = true ∧
    ((∃ c last, (seqNext s).2 = .item c last ∧ body (seqNext s).1 c last = .next t) ∨
      ((seqNext s).2 = .failed ∧ t = enterFault .stream (seqNext s).1)) := by
  unfold withItem at h
  split at h
  · refine ⟨by assumption, ?_⟩
    split at h
    · exact .inl ⟨_, _, by assumption, h⟩
    · exact .inr ⟨by assumption, by cases h; rfl⟩
    · cases h
  · cases h

theorem withItem_item {s s1 : State} {c : Bytes} {last : Bool} {body : State → Bytes → Bool → Result}
    (hf : sourceFits s = true) (h : seqNext s = (s1, .item c last)) : withItem s body = body s1 c last := by
  simp [withItem, h, hf]

theorem withItem_failed {s s1 : State} {body : State → Bytes → Bool → Result}
    (hf : sourceFits s = true) (h : seqNext s = (s1, .failed)) :
    withItem s body = .next (enterFault .stream s1) := by
  simp [withItem, h, hf]

end Sys2Proof.Machine
end

