-- ==== Sys2Proof/Laws/PerInstr.lean ====
section
/-!
SUPPORT. One fact about every instruction as syntax, constructor by constructor: the word its encoder writes matches exactly
one row of the opcode table, the instruction's own (spec/30_encoding.md R78, R79, R82).
-/

namespace Sys2Proof.Laws

/-- The rows of the opcode table a word matches. -/
def rowsOf (w : CmdWord) : List String := (opcodeTable.filter (·.matchesWord w)).map (·.mnemonic)

namespace EncodesToItsRow

/-- The encoded word of the instruction matches its row of the opcode table and no other. -/
def Statement (i : Instr) : Prop := rowsOf (encode i).word = [i.mnemonic]

theorem feNew (n v : Nat) : Statement (.feNew n v) :=
  show rowsOf (makeWord 0x1 0 0 0) = ["FE.NEW"] by decide
theorem feToint (a : Elem) : Statement (.feToint a) :=
  show rowsOf (makeWord 0x2 0 0 0) = ["FE.TOINT"] by decide
theorem feXor (a b : Elem) : Statement (.feXor a b) :=
  show rowsOf (makeWord 0x3 0 0 0) = ["FE.XOR"] by decide
theorem feMult (a b : Elem) (p : Option ExpSet) : Statement (.feMult a b p) :=
  show rowsOf (makeWord 0x4 0 0 0) = ["FE.MULT"] by decide
theorem seqNext : Statement .seqNext := by unfold Statement; decide
theorem startEcbEnc : Statement .startEcbEnc := by unfold Statement; decide
theorem startEcbDec : Statement .startEcbDec := by unfold Statement; decide
theorem startCbcEnc : Statement .startCbcEnc := by unfold Statement; decide
theorem startCbcDec : Statement .startCbcDec := by unfold Statement; decide
theorem startCtrEnc : Statement .startCtrEnc := by unfold Statement; decide
theorem startCtrDec : Statement .startCtrDec := by unfold Statement; decide
theorem startAeadEnc : Statement .startAeadEnc := by unfold Statement; decide
theorem startAeadDec : Statement .startAeadDec := by unfold Statement; decide
theorem pull : Statement .pull := by unfold Statement; decide
theorem abandon : Statement .abandon := by unfold Statement; decide
theorem cfgWr (r : Reg) (x : Value) : Statement (.cfgWr r x) :=
  show rowsOf (makeWord 0x9 0 0 r.number) = ["CFG.WR"] by cases r <;> decide
theorem regRd (r : Reg) : Statement (.regRd r) := by unfold Statement; cases r <;> decide

end EncodesToItsRow

end Sys2Proof.Laws
end

