-- ==== Sys2Proof/Laws/Pseudo.lean ====
section
/-!
SUPPORT. The small lemmas of the whole-stream calls: what a transcript's elements are, response by response, and what a run's
result gives as a value.
-/

namespace Sys2Proof.Machine

@[simp] theorem outElements_nil : outElements [] = [] := rfl

@[simp] theorem outElements_out (b : Bytes) (l : List Response) : outElements (.out b :: l) = outElements l ++ [b] := rfl

@[simp] theorem outElements_ok (l : List Response) : outElements (.ok :: l) = outElements l := rfl

@[simp] theorem outElements_fault (x : FaultClass) (l : List Response) : outElements (.fault x :: l) = outElements l := rfl

@[simp] theorem resultOf_done (v : Option Bool) (l : List Response) :
    resultOf (.done v :: l) = some ⟨outElements l, .done v⟩ := rfl

@[simp] theorem resultOf_fault (x : FaultClass) (l : List Response) :
    resultOf (.fault x :: l) = some ⟨outElements l, .fault x⟩ := rfl

@[simp] theorem StreamResult.value_out (r : StreamResult) : r.value.out = r.elements.flatten := rfl

@[simp] theorem StreamResult.value_ending (r : StreamResult) : r.value.ending = r.ending := rfl

/-- A whole-stream call has the value of its run's result. -/
theorem streamCall_of_result {k : Collab} {m : Mode} {d : Dir} {src : Source} {s : State} {r : StreamResult}
    (h : streamResult k m d src s = some r) : streamCall k m d src s = some r.value := by
  simp [streamCall, h]

end Sys2Proof.Machine
end

