-- ==== Sys2Proof/Laws/Steps.lean ====
section
/-!
SUPPORT. What each step of a session can do, said once: if the step answers next `t`, then `t` is one of the states listed.
Beside them, what the shared parts of the AEAD steps give on registers of the right width.
-/

namespace Sys2Proof.Machine

/-! ### ECB -/

/-- What the final chunk of an ECB encrypt session leads to (R123, R125). -/
theorem ecbEncFinal_next {k : Collab} {s t : State} {c : Bytes} (h : ecbEncFinal k s c = .next t) :
    t = enterFault .paddingScheme (logCall (.padApply c) s) ∨
    ∃ out l, t = respond (.out out) (setPhase .done { s with calls := l }) := by
  unfold ecbEncFinal at h
  simp only at h
  split at h
  · exact .inl (by cases h; rfl)
  · split at h
    · cases h; exact .inr ⟨_, _, rfl⟩
    · cases h; exact .inr ⟨_, _, rfl⟩

/-- What an ECB encrypt step leads to (R123). -/
theorem ecbEncStep_next {k : Collab} {s t : State} (h : ecbEncStep k s = .next t) :
    sourceFits s = true ∧
    (((seqNext s).2 = .failed ∧ t = enterFault .stream (seqNext s).1) ∨
      (∃ c, (seqNext s).2 = .item c true ∧ ecbEncFinal k (seqNext s).1 c = .next t) ∨
      (∃ c, (seqNext s).2 = .item c false ∧ c.length ≠ s.bsize ∧ t = enterFault .blockLength (seqNext s).1) ∨
      (∃ c, (seqNext s).2 = .item c false ∧ c.length = s.bsize ∧
        t = respond (.out (encryptBlock k s.bsize c)) (logCall (.encrypt c) (seqNext s).1))) := by
  obtain ⟨hf, ⟨c, last, hi, hb⟩ | hx⟩ := withItem_next h
  · refine ⟨hf, ?_⟩
    cases last with
    | true => exact .inr (.inl ⟨c, hi, by simpa using hb⟩)
    | false =>
      simp only [Bool.false_eq_true, if_false, seqNext_bsize] at hb
      split at hb
      · cases hb; exact .inr (.inr (.inl ⟨c, hi, by assumption, rfl⟩))
      · cases hb; exact .inr (.inr (.inr ⟨c, hi, not_not.1 (by assumption), rfl⟩))
  · exact ⟨hf, .inl hx⟩

/-- What an ECB decrypt step leads to (R124). -/
theorem ecbDecStep_next {k : Collab} {s t : State} (h : ecbDecStep k s = .next t) :
    sourceFits s = true ∧
    (((seqNext s).2 = .failed ∧ t = enterFault .stream (seqNext s).1) ∨
      (∃ c last, (seqNext s).2 = .item c last ∧ c.length ≠ s.bsize ∧ t = enterFault .blockLength (seqNext s).1) ∨
      (∃ c p, (seqNext s).2 = .item c true ∧ c.length = s.bsize ∧ p = decryptBlock k s.bsize c ∧
        t = respond (.out (k.padRemove s.bsize p))
          (setPhase .done (logCall (.padRemove p) (logCall (.decrypt c) (seqNext s).1)))) ∨
      (∃ c, (seqNext s).2 = .item c false ∧ c.length = s.bsize ∧
        t = respond (.out (decryptBlock k s.bsize c)) (logCall (.decrypt c) (seqNext s).1))) := by
  obtain ⟨hf, ⟨c, last, hi, hb⟩ | hx⟩ := withItem_next h
  · refine ⟨hf, ?_⟩
    simp only [seqNext_bsize] at hb
    split at hb
    · cases hb; exact .inr (.inl ⟨c, last, hi, by assumption, rfl⟩)
    · rename_i hl
      cases last with
      | true => cases hb; exact .inr (.inr (.inl ⟨c, _, hi, not_not.1 hl, rfl, by simp⟩))
      | false => cases hb; exact .inr (.inr (.inr ⟨c, hi, not_not.1 hl, rfl⟩))
  · exact ⟨hf, .inl hx⟩

/-! ### CBC -/

/-- What the final chunk of a CBC encrypt session leads to (R133). -/
theorem cbcEncFinal_next {k : Collab} {cv : Bytes} {s t : State} {c : Bytes} (h : cbcEncFinal k cv s c = .next t) :
    t = enterFault .paddingScheme (logCall (.padApply c) s) ∨
    ∃ out l, t = respond (.out out) (setPhase .done (setCv none { s with calls := l })) := by
  unfold cbcEncFinal at h
  simp only at h
  split at h
  · exact .inl (by cases h; rfl)
  · split at h
    · cases h; exact .inr ⟨_, _, rfl⟩
    · cases h; exact .inr ⟨_, _, rfl⟩

/-- What a CBC encrypt step in `CHAINING` leads to (R133). -/
theorem cbcEncChain_next {k : Collab} {s t : State} (h : cbcEncChain k s = .next t) :
    sourceFits s = true ∧
    (((seqNext s).2 = .failed ∧ t = enterFault .stream (seqNext s).1) ∨
      (∃ c cv, (seqNext s).2 = .item c true ∧ s.cv = some cv ∧ cbcEncFinal k cv (seqNext s).1 c = .next t) ∨
      (∃ c, (seqNext s).2 = .item c false ∧ c.length ≠ s.bsize ∧ t = enterFault .blockLength (seqNext s).1) ∨
      (∃ c cv x, (seqNext s).2 = .item c false ∧ s.cv = some cv ∧ c.length = s.bsize ∧ x = bxor c cv ∧
        t = respond (.out (encryptBlock k s.bsize x))
          (setCv (some (encryptBlock k s.bsize x)) (logCall (.encrypt x) (seqNext s).1)))) := by
  obtain ⟨hf, ⟨c, last, hi, hb⟩ | hx⟩ := withItem_next h
  · refine ⟨hf, ?_⟩
    obtain ⟨cv, hcv, hb⟩ := withRegs_next hb
    rw [need_eq_ok, seqNext_cv] at hcv
    cases last with
    | true => exact .inr (.inl ⟨c, cv, hi, hcv, by simpa using hb⟩)
    | false =>
      simp only [Bool.false_eq_true, if_false, seqNext_bsize] at hb
      split at hb
      · cases hb; exact .inr (.inr (.inl ⟨c, hi, by assumption, rfl⟩))
      · cases hb; exact .inr (.inr (.inr ⟨c, cv, _, hi, hcv, not_not.1 (by assumption), rfl, rfl⟩))
  · exact ⟨hf, .inl hx⟩

/-- What the first CBC encrypt step leads to (R133). -/
theorem cbcEncFirst_next {s t : State} (h : cbcEncFirst s = .next t) :
    ∃ cv, s.cv = some cv ∧ t = respond (.out cv) (setPhase .chaining s) := by
  obtain ⟨cv, hcv, hb⟩ := withRegs_next h
  exact ⟨cv, need_eq_ok.1 hcv, by cases hb; rfl⟩

/-- What a CBC decrypt step in `CHAINING` leads to (R134). -/
theorem cbcDecChain_next {k : Collab} {s t : State} (h : cbcDecChain k s = .next t) :
    sourceFits s = true ∧
    (((seqNext s).2 = .failed ∧ t = enterFault .stream (seqNext s).1) ∨
      (∃ c last, (seqNext s).2 = .item c last ∧ c.length ≠ s.bsize ∧ t = enterFault .blockLength (seqNext s).1) ∨
      (∃ c cv p, (seqNext s).2 = .item c true ∧ c.length = s.bsize ∧ s.cv = some cv ∧
        p = bxor (decryptBlock k s.bsize c) cv ∧
        t = respond (.out (k.padRemove s.bsize p))
          (setPhase .done (setCv none (logCall (.padRemove p) (logCall (.decrypt c) (seqNext s).1))))) ∨
      (∃ c cv, (seqNext s).2 = .item c false ∧ c.length = s.bsize ∧ s.cv = some cv ∧
        t = respond (.out (bxor (decryptBlock k s.bsize c) cv))
          (setCv (some c) (logCall (.decrypt c) (seqNext s).1)))) := by
  obtain ⟨hf, ⟨c, last, hi, hb⟩ | hx⟩ := withItem_next h
  · refine ⟨hf, ?_⟩
    simp only [seqNext_bsize] at hb
    split at hb
    · cases hb; exact .inr (.inl ⟨c, last, hi, by assumption, rfl⟩)
    · rename_i hl
      obtain ⟨cv, hcv, hb⟩ := withRegs_next hb
      rw [need_eq_ok, seqNext_cv] at hcv
      cases last with
      | true => cases hb; exact .inr (.inr (.inl ⟨c, cv, _, hi, not_not.1 hl, hcv, rfl, by simp⟩))
      | false => cases hb; exact .inr (.inr (.inr ⟨c, cv, hi, not_not.1 hl, hcv, rfl⟩))
  · exact ⟨hf, .inl hx⟩

/-- What the first CBC decrypt step leads to (R134). -/
theorem cbcDecFirst_next {k : Collab} {s t : State} (h : cbcDecFirst k s = .next t) :
    sourceFits s = true ∧
    (((seqNext s).2 = .failed ∧ t = enterFault .stream (seqNext s).1) ∨
      (∃ c last, (seqNext s).2 = .item c last ∧ (last = true ∨ c.length ≠ s.bsize) ∧
        t = enterFault .stream (seqNext s).1) ∨
      (∃ c, (seqNext s).2 = .item c false ∧ c.length = s.bsize ∧
        cbcDecChain k (setPhase .chaining (setCv (some c) (seqNext s).1)) = .next t)) := by
  obtain ⟨hf, ⟨c, last, hi, hb⟩ | hx⟩ := withItem_next h
  · refine ⟨hf, ?_⟩
    simp only [seqNext_bsize] at hb
    split at hb
    · cases hb; exact .inr (.inl ⟨c, last, hi, by assumption, rfl⟩)
    · rename_i hl
      rw [not_or, not_not, Bool.not_eq_true] at hl
      obtain ⟨rfl, hl⟩ := hl
      exact .inr (.inr ⟨c, hi, hl, hb⟩)
  · exact ⟨hf, .inl hx⟩

/-! ### CTR -/

theorem ctrRegs_eq_ok {s : State} {r : CtrRegs} :
    ctrRegs s = .ok r ↔ s.nonce = some r.nonce ∧ s.cw = some r.cw ∧ s.ctr = some r.ctr := by
  obtain ⟨nonce, cw, ctr⟩ := r
  unfold ctrRegs
  cases s.nonce <;> cases s.cw <;> cases s.ctr <;> simp [need, bind, Except.bind]

/-- What a CTR step leads to (R144, R146). -/
theorem ctrStep_next {k : Collab} {s t : State} (h : ctrStep k s = .next t) :
    sourceFits s = true ∧
    (((seqNext s).2 = .failed ∧ t = enterFault .stream (seqNext s).1) ∨
      (∃ c last r, (seqNext s).2 = .item c last ∧ ctrRegs s = .ok r ∧ 2 ^ (8 * r.cw) ≤ r.ctr ∧
        t = enterFault .range (seqNext s).1) ∨
      (∃ c last r, (seqNext s).2 = .item c last ∧ ctrRegs s = .ok r ∧ r.ctr < 2 ^ (8 * r.cw) ∧
        t = respond (.out (bxor c ((keystream k s.bsize r.nonce r.cw r.ctr).take c.length)))
          (setPhase (if last then .done else s.phase)
            (setCtr (r.ctr + 1) (logCall (.encrypt (counterBlock r.nonce r.cw r.ctr)) (seqNext s).1))))) := by
  obtain ⟨hf, ⟨c, last, hi, hb⟩ | hx⟩ := withItem_next h
  · refine ⟨hf, ?_⟩
    obtain ⟨r, hr, hb⟩ := withRegs_next hb
    rw [ctrRegs_eq_ok, seqNext_nonce, seqNext_cw, seqNext_ctr, ← ctrRegs_eq_ok] at hr
    simp only [counterSpent, decide_eq_true_eq, seqNext_bsize, seqNext_phase] at hb
    split at hb
    · cases hb; exact .inr (.inl ⟨c, last, r, hi, hr, by assumption, rfl⟩)
    · cases hb; exact .inr (.inr ⟨c, last, r, hi, hr, Nat.not_le.1 (by assumption), rfl⟩)
  · exact ⟨hf, .inl hx⟩

/-! ### AEAD -/

theorem aeadRegs_eq_ok {s : State} {r : AeadRegs} :
    aeadRegs s = .ok r ↔
      s.nonce = some r.nonce ∧ s.cw = some r.cw ∧ s.ctr = some r.ctr ∧ s.acc = some r.acc ∧ s.h = some r.h ∧
      s.ek = some r.ek ∧ s.blkcnt = some r.blkcnt ∧ s.hlen = some r.hlen := by
  obtain ⟨nonce, cw, ctr, acc, h, ek, blkcnt, hlen⟩ := r
  unfold aeadRegs
  cases s.nonce <;> cases s.cw <;> cases s.ctr <;> cases s.acc <;> cases s.h <;> cases s.ek <;> cases s.blkcnt <;>
    cases s.hlen <;> simp [need, bind, Except.bind]

/-- The accumulator takes a block of its own width and keeps that width (R150). -/
theorem accumulate_exists {n v : Nat} {acc h : Elem} {popt : Option ExpSet} {p : ExpSet} (hp : selPoly n popt = .ok p)
    (ha : acc.n = n) (hav : acc.v < 2 ^ n) (hv : v < 2 ^ n) (hh : h.n = n) :
    ∃ x, feMultOp ⟨n, acc.v ^^^ v⟩ h popt = .ok x ∧ accumulate popt acc ⟨n, v⟩ h = .ok x ∧ x.n = n ∧ x.v < 2 ^ n := by
  obtain ⟨x, h1, h2, h3⟩ :=
    feMultOp_exists (a := ⟨n, acc.v ^^^ v⟩) rfl (Nat.xor_lt_two_pow hav hv) hh hp
  exact ⟨x, h1, by simp [accumulate, feXorOp, ha, h1, bind, Except.bind], h2, h3⟩

/-- The length element's two halves do not overlap (R71, R166). -/
theorem lengthInt_eq {m hl bc : Nat} (h : bc < 2 ^ (4 * m)) :
    lengthInt (8 * m) hl bc = hl * 2 ^ (4 * m) + bc := by
  unfold lengthInt
  rw [show 8 * m / 2 = 4 * m by omega, Nat.shiftLeft_eq, Nat.mul_comm, Nat.two_pow_add_eq_or_of_lt h]

theorem lengthInt_lt {m hl bc : Nat} (hh : hl < 2 ^ (4 * m)) (h : bc < 2 ^ (4 * m)) :
    lengthInt (8 * m) hl bc < 2 ^ (8 * m) := by
  have : 2 ^ (8 * m) = 2 ^ (4 * m) * 2 ^ (4 * m) := by rw [← Nat.pow_add]; congr 1; omega
  rw [lengthInt_eq h, this]
  nlinarith

/-- The finalisation gives an accumulator and a tag of the field's width (R158). -/
theorem finalise_exists {m : Nat} {popt : Option ExpSet} {p : ExpSet} {r : AeadRegs} (hp : selPoly (8 * m) popt = .ok p)
    (ha : r.acc.n = 8 * m) (hav : r.acc.v < 2 ^ (8 * m)) (hh : r.h.n = 8 * m) (he : r.ek.n = 8 * m)
    (hl : r.hlen < 2 ^ (4 * m)) (hb : r.blkcnt < 2 ^ (4 * m)) :
    ∃ x, feMultOp ⟨8 * m, r.acc.v ^^^ lengthInt (8 * m) r.hlen r.blkcnt⟩ r.h popt = .ok x ∧
      finalise popt (8 * m) r = .ok (x, ⟨8 * m, x.v ^^^ r.ek.v⟩) ∧ x.n = 8 * m ∧ x.v < 2 ^ (8 * m) := by
  have hlt := lengthInt_lt hl hb
  obtain ⟨x, h1, h2, h3, h4⟩ := accumulate_exists hp ha hav hlt hh
  refine ⟨x, h1, ?_, h3, h4⟩
  simp only [finalise, feNewOp_ok hlt, bind, Except.bind, h2, feXorOp_ok (h3.trans he.symm), h3]

/-- What the first AEAD encrypt step leads to (R153). -/
theorem aeadEncFirst_next {s t : State} (h : aeadEncFirst s = .next t) :
    ∃ header, s.header = some header ∧
      t = respond (.out (headerBlock s.bsize header)) (setPhase .chaining s) := by
  obtain ⟨x, hx, hb⟩ := withRegs_next h
  exact ⟨x, need_eq_ok.1 hx, by cases hb; rfl⟩

/-- What an AEAD encrypt step in `CHAINING` leads to (R157). -/
theorem aeadEncData_next {k : Collab} {s t : State} (h : aeadEncData k s = .next t) :
    sourceFits s = true ∧
    (((seqNext s).2 = .failed ∧ t = enterFault .stream (seqNext s).1) ∨
      (∃ c last, (seqNext s).2 = .item c last ∧ c.length ≠ s.bsize ∧
        t = enterFault .configuration (seqNext s).1) ∨
      (∃ c last r, (seqNext s).2 = .item c last ∧ c.length = s.bsize ∧ aeadRegs s = .ok r ∧
        2 ^ (8 * r.cw) ≤ r.ctr ∧ t = enterFault .range (seqNext s).1) ∨
      (∃ c last r ct, (seqNext s).2 = .item c last ∧ c.length = s.bsize ∧ aeadRegs s = .ok r ∧
        r.ctr < 2 ^ (8 * r.cw) ∧ ct = bxor c (keystream k s.bsize r.nonce r.cw r.ctr) ∧
        ((∃ f, accumulate s.poly r.acc (elemOfBlock s.bsize ct) r.h = .error f ∧
            t = enterFault f (logCall (.encrypt (counterBlock r.nonce r.cw r.ctr)) (seqNext s).1)) ∨
          (∃ acc, accumulate s.poly r.acc (elemOfBlock s.bsize ct) r.h = .ok acc ∧
            t = respond (.out ct)
              (setPhase (if last then .final else s.phase)
                (setBlkcnt (r.blkcnt + 1) (setCtr (r.ctr + 1) (setAcc acc
                  (logCall (.encrypt (counterBlock r.nonce r.cw r.ctr)) (seqNext s).1))))))))) := by
  obtain ⟨hf, ⟨c, last, hi, hb⟩ | hx⟩ := withItem_next h
  · refine ⟨hf, .inr ?_⟩
    simp only [seqNext_bsize] at hb
    split at hb
    · cases hb; exact .inl ⟨c, last, hi, by assumption, rfl⟩
    · rename_i hl
      obtain ⟨r, hr, hb⟩ := withRegs_next hb
      simp only [aeadRegs_eq_ok, seqNext_nonce, seqNext_cw, seqNext_ctr, seqNext_acc, seqNext_h, seqNext_ek,
        seqNext_blkcnt, seqNext_hlen] at hr
      rw [← aeadRegs_eq_ok] at hr
      simp only [counterSpent, decide_eq_true_eq] at hb
      split at hb
      · cases hb; exact .inr (.inl ⟨c, last, r, hi, not_not.1 hl, hr, by assumption, rfl⟩)
      · rename_i hc
        refine .inr (.inr ⟨c, last, r, _, hi, not_not.1 hl, hr, Nat.not_le.1 hc, rfl, ?_⟩)
        simp only [logCall_bsize, logCall_poly, logCall_phase, seqNext_bsize, seqNext_poly, seqNext_phase] at hb
        obtain ⟨acc, ha, hb⟩ | ⟨f, hf', rfl⟩ := withValue_next hb
        · cases hb; exact .inr ⟨acc, ha, rfl⟩
        · exact .inl ⟨f, hf', rfl⟩
  · exact ⟨hf, .inl hx⟩

/-- What the AEAD tag step leads to (R159). -/
theorem aeadEncTag_next {s t : State} (h : aeadEncTag s = .next t) :
    ∃ r, aeadRegs s = .ok r ∧
      ((∃ f, finalise s.poly (8 * s.bsize) r = .error f ∧ t = enterFault f s) ∨
        (∃ acc tag, finalise s.poly (8 * s.bsize) r = .ok (acc, tag) ∧
          t = respond (.out (blockOfElem s.bsize tag)) (setPhase .done (setAcc acc s)))) := by
  obtain ⟨r, hr, hb⟩ := withRegs_next h
  refine ⟨r, hr, ?_⟩
  obtain ⟨⟨acc, tag⟩, ha, hb⟩ | ⟨f, hf, rfl⟩ := withValue_next hb
  · cases hb; exact .inr ⟨acc, tag, ha, rfl⟩
  · exact .inl ⟨f, hf, rfl⟩

/-- What a ciphertext block of an AEAD decrypt session leads to (R161). -/
theorem aeadDecData_next {k : Collab} {s t : State} {c : Bytes} (h : aeadDecData k s c = .next t) :
    ∃ r, aeadRegs s = .ok r ∧
      ((∃ f, accumulate s.poly r.acc (elemOfBlock s.bsize c) r.h = .error f ∧ t = enterFault f s) ∨
        (2 ^ (8 * r.cw) ≤ r.ctr ∧ t = enterFault .range s) ∨
        (∃ acc, accumulate s.poly r.acc (elemOfBlock s.bsize c) r.h = .ok acc ∧ r.ctr < 2 ^ (8 * r.cw) ∧
          t = respond (.out (bxor c (keystream k s.bsize r.nonce r.cw r.ctr)))
            (setBlkcnt (r.blkcnt + 1) (setCtr (r.ctr + 1) (setAcc acc
              (logCall (.encrypt (counterBlock r.nonce r.cw r.ctr)) s)))))) := by
  obtain ⟨r, hr, hb⟩ := withRegs_next h
  refine ⟨r, hr, ?_⟩
  obtain ⟨acc, ha, hb⟩ | ⟨f, hf, rfl⟩ := withValue_next hb
  · simp only [counterSpent, decide_eq_true_eq] at hb
    split at hb
    · cases hb; exact .inr (.inl ⟨by assumption, rfl⟩)
    · cases hb; exact .inr (.inr ⟨acc, ha, Nat.not_le.1 (by assumption), rfl⟩)
  · exact .inl ⟨f, hf, rfl⟩

/-- What the tag block of an AEAD decrypt session leads to (R162). -/
theorem aeadDecTag_next {s t : State} {c : Bytes} (h : aeadDecTag s c = .next t) :
    ∃ r, aeadRegs s = .ok r ∧
      ((∃ f, finalise s.poly (8 * s.bsize) r = .error f ∧ t = enterFault f s) ∨
        (∃ acc tag v, finalise s.poly (8 * s.bsize) r = .ok (acc, tag) ∧
          v = verifyOf (blockOfElem s.bsize tag) c ∧
          t = respond (.done (some v.ok)) (setPhase .done (setVerify v (setAcc acc s))))) := by
  obtain ⟨r, hr, hb⟩ := withRegs_next h
  refine ⟨r, hr, ?_⟩
  obtain ⟨⟨acc, tag⟩, ha, hb⟩ | ⟨f, hf, rfl⟩ := withValue_next hb
  · cases hb; exact .inr ⟨acc, tag, _, ha, rfl, rfl⟩
  · exact .inl ⟨f, hf, rfl⟩

/-- What an AEAD decrypt step in `CHAINING` leads to (R161, R162). -/
theorem aeadDecChain_next {k : Collab} {s t : State} (h : aeadDecChain k s = .next t) :
    sourceFits s = true ∧
    (((seqNext s).2 = .failed ∧ t = enterFault .stream (seqNext s).1) ∨
      (∃ c last, (seqNext s).2 = .item c last ∧ c.length ≠ s.bsize ∧
        t = enterFault .configuration (seqNext s).1) ∨
      (∃ c, (seqNext s).2 = .item c true ∧ c.length = s.bsize ∧ aeadDecTag (seqNext s).1 c = .next t) ∨
      (∃ c, (seqNext s).2 = .item c false ∧ c.length = s.bsize ∧ aeadDecData k (seqNext s).1 c = .next t)) := by
  obtain ⟨hf, ⟨c, last, hi, hb⟩ | hx⟩ := withItem_next h
  · refine ⟨hf, .inr ?_⟩
    simp only [seqNext_bsize] at hb
    split at hb
    · cases hb; exact .inl ⟨c, last, hi, by assumption, rfl⟩
    · rename_i hl
      cases last with
      | true => exact .inr (.inl ⟨c, hi, not_not.1 hl, by simpa using hb⟩)
      | false => exact .inr (.inr ⟨c, hi, not_not.1 hl, by simpa using hb⟩)
  · exact ⟨hf, .inl hx⟩

/-- What the first AEAD decrypt step leads to (R160). -/
theorem aeadDecFirst_next {k : Collab} {s t : State} (h : aeadDecFirst k s = .next t) :
    sourceFits s = true ∧
    (((seqNext s).2 = .failed ∧ t = enterFault .stream (seqNext s).1) ∨
      (∃ c, (seqNext s).2 = .item c true ∧ t = enterFault .stream (seqNext s).1) ∨
      (∃ c, (seqNext s).2 = .item c false ∧ c.length ≠ s.bsize ∧
        t = enterFault .configuration (seqNext s).1) ∨
      (∃ c hk, (seqNext s).2 = .item c false ∧ c.length = s.bsize ∧ s.h = some hk ∧
        ((∃ f, feMultOp (elemOfBlock s.bsize c) hk s.poly = .error f ∧ t = enterFault f (seqNext s).1) ∨
          (∃ acc, feMultOp (elemOfBlock s.bsize c) hk s.poly = .ok acc ∧
            aeadDecChain k (setPhase .chaining (setAcc acc (seqNext s).1)) = .next t)))) := by
  obtain ⟨hf, ⟨c, last, hi, hb⟩ | hx⟩ := withItem_next h
  · refine ⟨hf, .inr ?_⟩
    cases last with
    | true => cases hb; exact .inl ⟨c, hi, rfl⟩
    | false =>
      simp only [Bool.false_eq_true, if_false, seqNext_bsize] at hb
      split at hb
      · cases hb; exact .inr (.inl ⟨c, hi, by assumption, rfl⟩)
      · rename_i hl
        obtain ⟨hk, hh, hb⟩ := withRegs_next hb
        rw [need_eq_ok, seqNext_h] at hh
        refine .inr (.inr ⟨c, hk, hi, not_not.1 hl, hh, ?_⟩)
        rw [seqNext_poly] at hb
        obtain ⟨acc, ha, hb⟩ | ⟨f, hf', rfl⟩ := withValue_next hb
        · exact .inr ⟨acc, ha, hb⟩
        · exact .inl ⟨f, hf', rfl⟩
  · exact ⟨hf, .inl hx⟩

/-! ### `PULL` -/

/-- The ways a `PULL` can answer next: by phase, mode and direction (R29, R172). -/
inductive PullCase (k : Collab) (s t : State) : Prop where
  | idle (h : s.phase = .idle) (e : t = reject s)
  | done (h : s.phase = .done) (e : t = respond (.done (doneVerify s)) s)
  | flt (x) (h : s.phase = .faulted) (hx : s.fault = some x) (e : t = respond (.fault x) s)
  | ecbE (h : s.phase = .chaining) (hm : s.mode = some .ecb) (hd : s.dir = some .enc) (e : ecbEncStep k s = .next t)
  | ecbD (h : s.phase = .chaining) (hm : s.mode = some .ecb) (hd : s.dir = some .dec) (e : ecbDecStep k s = .next t)
  | cbcE0 (h : s.phase = .start) (hm : s.mode = some .cbc) (hd : s.dir = some .enc) (e : cbcEncFirst s = .next t)
  | cbcE (h : s.phase = .chaining) (hm : s.mode = some .cbc) (hd : s.dir = some .enc) (e : cbcEncChain k s = .next t)
  | cbcD0 (h : s.phase = .start) (hm : s.mode = some .cbc) (hd : s.dir = some .dec) (e : cbcDecFirst k s = .next t)
  | cbcD (h : s.phase = .chaining) (hm : s.mode = some .cbc) (hd : s.dir = some .dec) (e : cbcDecChain k s = .next t)
  | ctr (d) (h : s.phase = .chaining) (hm : s.mode = some .ctr) (hd : s.dir = some d) (e : ctrStep k s = .next t)
  | aeE0 (h : s.phase = .start) (hm : s.mode = some .aead) (hd : s.dir = some .enc) (e : aeadEncFirst s = .next t)
  | aeE (h : s.phase = .chaining) (hm : s.mode = some .aead) (hd : s.dir = some .enc) (e : aeadEncData k s = .next t)
  | aeT (h : s.phase = .final) (hm : s.mode = some .aead) (hd : s.dir = some .enc) (e : aeadEncTag s = .next t)
  | aeD0 (h : s.phase = .start) (hm : s.mode = some .aead) (hd : s.dir = some .dec) (e : aeadDecFirst k s = .next t)
  | aeD (h : s.phase = .chaining) (hm : s.mode = some .aead) (hd : s.dir = some .dec) (e : aeadDecChain k s = .next t)

/-- A `PULL` that answers next did so in one of the listed ways. -/
theorem pull_next {k : Collab} {s t : State} (h : pullWith k s = .next t) : PullCase k s t := by
  unfold pullWith at h
  split at h
  · cases h; exact .idle ‹_› rfl
  · cases h; exact .done ‹_› rfl
  · split at h
    · cases h; exact .flt _ ‹_› ‹_› rfl
    · cases h
  all_goals
    rename_i hp
    unfold sessionPull at h
    split at h <;> rename_i hm hd
    · cases ‹Dir› <;> simp [ecbPull, hp] at h
      all_goals first | exact .ecbE hp hm hd h | exact .ecbD hp hm hd h
    · cases ‹Dir› <;> simp [cbcPull, hp] at h
      all_goals first | exact .cbcE hp hm hd h | exact .cbcD hp hm hd h | exact .cbcE0 hp hm hd h | exact .cbcD0 hp hm hd h
    · simp [ctrPull, hp] at h
      all_goals exact .ctr _ hp hm hd h
    · cases ‹Dir› <;> simp [aeadPull, hp] at h
      all_goals first | exact .aeE hp hm hd h | exact .aeD hp hm hd h | exact .aeE0 hp hm hd h | exact .aeD0 hp hm hd h | exact .aeT hp hm hd h
    · cases h

/-! ### `START` -/

/-- A `START` either opens the session its rule gives or takes the rule's fault (R171). -/
theorem startSession_cases (m : Mode) (d : Dir) (rule : State → Except FaultClass State) (s : State) :
    (∃ u, rule (clearSession s) = .ok u ∧ startSession m d rule s = respond .ok u) ∨
    (∃ f, rule (clearSession s) = .error f ∧ startSession m d rule s = enterFault f (setKind m d (clearSession s))) := by
  unfold startSession
  cases h : rule (clearSession s) with
  | ok u => exact .inl ⟨u, rfl, rfl⟩
  | error f => exact .inr ⟨f, rfl, rfl⟩

/-- What the CBC encrypt rule gives (R131). -/
theorem cbcEncStart_cases (s : State) :
    (∃ iv, s.iv = some iv ∧ iv.length = s.bsize ∧
      cbcEncStart s = .ok (setCv (some iv) (setPhase .start (setKind .cbc .enc s)))) ∨
    cbcEncStart s = .error .configuration := by
  unfold cbcEncStart
  cases h : s.iv with
  | none => exact .inr rfl
  | some iv =>
    by_cases hl : iv.length = s.bsize
    · exact .inl ⟨iv, rfl, hl, by simp [hl]⟩
    · exact .inr (by simp [hl])

/-- What the CTR checks give (R141). -/
theorem ctrChecks_cases (s : State) :
    (∃ nonce cw, s.nonce = some nonce ∧ s.cw = some cw ∧ nonce.length + cw = s.bsize ∧ ctrChecks s = .ok ()) ∨
    ((∀ nonce cw, s.nonce = some nonce → s.cw = some cw → nonce.length + cw ≠ s.bsize) ∧
      ctrChecks s = .error .configuration) := by
  unfold ctrChecks
  cases h1 : s.nonce with
  | none => exact .inr ⟨by simp, rfl⟩
  | some nonce =>
    cases h2 : s.cw with
    | none => exact .inr ⟨by simp, rfl⟩
    | some cw =>
      by_cases hl : nonce.length + cw = s.bsize
      · exact .inl ⟨nonce, cw, rfl, rfl, hl, by simp [bind, Except.bind, hl]⟩
      · refine .inr ⟨?_, by simp [bind, Except.bind, hl]⟩
        rintro _ _ ⟨⟩ ⟨⟩
        exact hl

/-- What the AEAD checks give (R151, R152, R196). -/
theorem aeadChecks_cases (s : State) (hl : Option Nat) :
    (∃ nonce cw hlen p, s.nonce = some nonce ∧ s.cw = some cw ∧ hl = some hlen ∧ selPoly (8 * s.bsize) s.poly = .ok p ∧
      nonce.length + cw = s.bsize ∧ 2 * nonce.length = s.bsize ∧ hlen ≤ s.bsize ∧
      aeadChecks s hl = .ok (nonce, cw, hlen)) ∨
    ((∀ nonce cw hlen p, s.nonce = some nonce → s.cw = some cw → hl = some hlen →
        selPoly (8 * s.bsize) s.poly = .ok p →
        ¬ (nonce.length + cw = s.bsize ∧ 2 * nonce.length = s.bsize ∧ hlen ≤ s.bsize)) ∧
      aeadChecks s hl = .error .configuration) := by
  unfold aeadChecks
  cases h0 : selPoly (8 * s.bsize) s.poly with
  | error f => exact .inr ⟨by simp, by rw [selPoly_error h0]; rfl⟩
  | ok p =>
    cases h1 : s.nonce with
    | none => exact .inr ⟨by simp, rfl⟩
    | some nonce =>
      cases h2 : s.cw with
      | none => exact .inr ⟨by simp, rfl⟩
      | some cw =>
        cases hl with
        | none => exact .inr ⟨by simp, rfl⟩
        | some hlen =>
          by_cases a : nonce.length + cw = s.bsize
          · by_cases b : 2 * nonce.length = s.bsize
            · by_cases c : hlen ≤ s.bsize
              · exact .inl ⟨nonce, cw, hlen, p, rfl, rfl, rfl, rfl, a, b, c, by
                  simp [bind, Except.bind, a, b, Nat.not_lt.2 c]⟩
              · refine .inr ⟨?_, by simp [bind, Except.bind, a, b, Nat.not_le.1 c]⟩
                rintro _ _ _ _ ⟨⟩ ⟨⟩ ⟨⟩ _ h
                exact c h.2.2
            · refine .inr ⟨?_, by simp [bind, Except.bind, a, b]⟩
              rintro _ _ _ _ ⟨⟩ ⟨⟩ ⟨⟩ _ h
              exact b h.2.1
          · refine .inr ⟨?_, by simp [bind, Except.bind, a]⟩
            rintro _ _ _ _ ⟨⟩ ⟨⟩ ⟨⟩ _ h
            exact a h.1

end Sys2Proof.Machine
end

