-- ==== Sys2Proof/Tests/Slice0.lean ====
section
/-!
SUPPORT. The model's own tests: the checks of WellFormed, words decoded bit by bit (spec/30 R77 to R80, spec/opcode_table.json),
one-step vectors of spec/95_test_vectors.md with the fixtures of its section 3, and, for each obligation with hypotheses, a
concrete state and operands that meet them.
-/

open Sys2Proof Sys2Proof.Machine Sys2Proof.Claims

namespace Sys2Proof.Tests

/-! ### Fixtures (spec/95 section 3) -/

def bytes (l : List Nat) : Bytes := l.map (BitVec.ofNat 8)

/-- A machine after reset with block size `n`. -/
def machine (n : Nat) : State := { State.reset with bsize := n }

def source (chunks : List (List Nat)) (e : SourceEnd) : Source := ⟨chunks.map bytes, e⟩

/-- The machine with a byte source attached. -/
def onSource (src : Source) (s : State) : State := { s with src := some src }

def answerOf (r : Result) : Option Response :=
  match r with
  | .next t => t.responses.head?
  | .fault _ | .refused _ => none

/-- One field of the state a step leaves. -/
def after {α : Type} (f : State → α) (r : Result) : Option α :=
  match r with
  | .next t => some (f t)
  | .fault _ | .refused _ => none

def rotl : Bytes → Bytes
  | [] => []
  | b :: rest => rest ++ [b]

def rotr (b : Bytes) : Bytes := (rotl b.reverse).reverse

def onBlock (f : Bytes → Bytes) (n : Nat) (b : Block n) : Block n := toBlock n (f b.toList)

/-- `PADK`, for blocks of at most 255 bytes. -/
def padk (n : Nat) (c : Bytes) : Bytes :=
  c ++ List.replicate (n - c.length % n) (BitVec.ofNat 8 (n - c.length % n))

def unpadk (_n : Nat) (p : Bytes) : Bytes :=
  let k := (p.getLast?.getD 0).toNat
  if 1 ≤ k ∧ k ≤ p.length then p.take (p.length - k) else p

def stub (f g : Bytes → Bytes) : Collab := ⟨fun n b => onBlock f n b, fun n b => onBlock g n b, padk, unpadk⟩

/-- `ROTL` with `PADK`. -/
def kRotl : Collab := stub rotl rotr

/-- `XR` with `PADK`. -/
def kXr : Collab := stub (fun b => rotl (b.map (· ^^^ 0x5A))) (fun b => (rotr b).map (· ^^^ 0x5A))

/-- The cipher that changes nothing, with `PADK`; for every block size. -/
def kId : Collab := ⟨fun _ b => b, fun _ b => b, padk, unpadk⟩

/-! ### WellFormed: an ill-formed term for each check -/

theorem test_wf_feNew_width_zero : (Instr.feNew 0 0).wf = false := by decide
theorem test_wf_element_width_zero : (Instr.feToint ⟨0, 0⟩).wf = false := by decide
theorem test_wf_element_too_large : (Instr.feXor ⟨8, 0xFF⟩ ⟨8, 0x100⟩).wf = false := by decide
theorem test_wf_polynomial_repeats : (Instr.feMult ⟨8, 1⟩ ⟨8, 1⟩ (some [8, 4, 4, 0])).wf = false := by decide
theorem test_wf_polynomial_rises : (Instr.feMult ⟨8, 1⟩ ⟨8, 1⟩ (some [0, 8])).wf = false := by decide
theorem test_wf_cfgWr_kind : (Instr.cfgWr .cw (.bytes [1])).wf = false := by decide
theorem test_wf_cfgWr_value : (Instr.cfgWr .poly (.poly (some [1, 1]))).wf = false := by decide
theorem test_wf_left_operand : (Instr.feMult ⟨2, 4⟩ ⟨2, 1⟩ none).wf = false := by decide

/-! ### Decoding: a word of every row, bit by bit as `REG_DIR_MODE_OP` -/

theorem test_decode_feNew :
    decode ⟨0b00000000_0_000_0001#16, [.int 3, .int 7]⟩ = .ok (.feNew 3 7) := by decide
theorem test_decode_feToint :
    decode ⟨0b00000000_0_000_0010#16, [.elem ⟨8, 0x1B⟩]⟩ = .ok (.feToint ⟨8, 0x1B⟩) := by decide
theorem test_decode_feXor :
    decode ⟨0b00000000_0_000_0011#16, [.elem ⟨8, 1⟩, .elem ⟨8, 2⟩]⟩ = .ok (.feXor ⟨8, 1⟩ ⟨8, 2⟩) := by decide
theorem test_decode_feMult :
    decode ⟨0b00000000_0_000_0100#16, [.elem ⟨8, 1⟩, .elem ⟨8, 2⟩, .poly none]⟩ = .ok (.feMult ⟨8, 1⟩ ⟨8, 2⟩ none) := by
  decide
theorem test_decode_seqNext : decode ⟨0b00000000_0_000_0101#16, []⟩ = .ok .seqNext := by decide
theorem test_decode_startEcbEnc : decode ⟨0b00000000_0_000_0110#16, []⟩ = .ok .startEcbEnc := by decide
theorem test_decode_startEcbDec : decode ⟨0b00000000_1_000_0110#16, []⟩ = .ok .startEcbDec := by decide
theorem test_decode_startCbcEnc : decode ⟨0b00000000_0_001_0110#16, []⟩ = .ok .startCbcEnc := by decide
theorem test_decode_startCbcDec : decode ⟨0b00000000_1_001_0110#16, []⟩ = .ok .startCbcDec := by decide
theorem test_decode_startCtrEnc : decode ⟨0b00000000_0_010_0110#16, []⟩ = .ok .startCtrEnc := by decide
theorem test_decode_startCtrDec : decode ⟨0b00000000_1_010_0110#16, []⟩ = .ok .startCtrDec := by decide
theorem test_decode_startAeadEnc : decode ⟨0b00000000_0_011_0110#16, []⟩ = .ok .startAeadEnc := by decide
theorem test_decode_startAeadDec : decode ⟨0b00000000_1_011_0110#16, []⟩ = .ok .startAeadDec := by decide
theorem test_decode_pull : decode ⟨0b00000000_0_000_0111#16, []⟩ = .ok .pull := by decide
theorem test_decode_abandon : decode ⟨0b00000000_0_000_1000#16, []⟩ = .ok .abandon := by decide
theorem test_decode_cfgWr :
    decode ⟨0b00000110_0_000_1001#16, [.poly (some [64, 4, 3, 1, 0])]⟩ = .ok (.cfgWr .poly (.poly (some [64, 4, 3, 1, 0]))) := by
  decide
theorem test_decode_regRd : decode ⟨0b00011011_0_000_1010#16, []⟩ = .ok (.regRd .hlen) := by decide
theorem test_decode_reserved_op : decode ⟨0x000B#16, []⟩ = .error .reservedOp := by decide
theorem test_decode_reserved_mode : decode ⟨0x0046#16, []⟩ = .error .reservedMode := by decide
theorem test_decode_stray_dir : decode ⟨0x0087#16, []⟩ = .error .strayModeOrDir := by decide
theorem test_decode_stray_reg : decode ⟨0x0107#16, []⟩ = .error .strayReg := by decide
theorem test_decode_unknown_register : decode ⟨0x070A#16, []⟩ = .error .unknownRegister := by decide
theorem test_decode_operand_kind : decode ⟨0x0209#16, [.bytes []]⟩ = .error .illTypedOperands := by decide
theorem test_tableWord_cfgWr : decodeTableWord 16 0x0609 = some (.cfgWr .poly (.poly none)) := by decide
theorem test_fetchWord_runs :
    after State.phase (step ((machine 4).withFetchWord 16 0x0086)) = some .chaining := by decide

/-! ### Field Engine (spec/95 sections 1 and 2) -/

theorem test_feNew_largest : answerOf (exec (.feNew 8 0xFF) State.reset) = some (.elem ⟨8, 0xFF⟩) := by decide
theorem test_feNew_range : answerOf (exec (.feNew 3 0x8) State.reset) = some (.fault .range) := by decide
theorem test_feToint :
    answerOf (exec (.feToint ⟨64, 0x0123456789ABCDEF⟩) State.reset) = some (.int 81985529216486895) := by decide
theorem test_feXor :
    answerOf (exec (.feXor ⟨8, 0x57⟩ ⟨8, 0x83⟩) State.reset) = some (.elem ⟨8, 0xD4⟩) := by decide
theorem test_feXor_widths :
    answerOf (exec (.feXor ⟨8, 0x01⟩ ⟨64, 0x01⟩) State.reset) = some (.fault .argument) := by decide
theorem test_feMult_two_reductions :
    answerOf (exec (.feMult ⟨8, 0x57⟩ ⟨8, 0x83⟩ none) State.reset) = some (.elem ⟨8, 0xC1⟩) := by decide
theorem test_feMult_supplied_polynomial :
    answerOf (exec (.feMult ⟨4, 0x9⟩ ⟨4, 0x7⟩ (some [4, 1])) State.reset) = some (.elem ⟨4, 0x9⟩) := by decide

/-! ### Block Sequencer (spec/95 section 4) -/

theorem test_seqNext_looks_ahead :
    after (fun t => (t.responses.head?, t.seq)) (exec .seqNext (onSource (source [[1, 2, 3, 4], [5]] .eof) (machine 4)))
      = some (some (.item (bytes [1, 2, 3, 4]) false), .primed (bytes [5])) := by decide
theorem test_seqNext_empty_source :
    after (fun t => (t.responses.head?, t.seq)) (exec .seqNext (onSource (source [] .eof) (machine 4)))
      = some (some (.item [] true), .exhausted) := by decide

/-! ### Sessions (spec/95 sections 5 to 7) -/

/-- `PULL`'s answer and the phase it leaves, in a session of `k` started on a source. -/
def pulled (k : Collab) (m : Mode) (d : Dir) (src : Source) (s : State) : Option (Option Response × Phase) :=
  after (fun t => (t.responses.head?, t.phase)) (pullWith k (startWith k m d { s with sources := [src] }))

def cbcMachine : State := { machine 4 with iv := some (bytes [0x10, 0x20, 0x30, 0x40]) }

def ctrMachine : State := { machine 4 with nonce := some (bytes [0xAA, 0xBB]), cw := some 2 }

def aeadMachine : State :=
  { machine 8 with
    nonce := some (bytes [0xA0, 0xA1, 0xA2, 0xA3])
    cw := some 4
    header := some (bytes [0xC0, 0xC1, 0xC2])
    hlenCfg := some 3 }

theorem test_ecb_enc_final_two_blocks :
    pulled kRotl .ecb .enc (source [[1, 2, 3, 4]] .eof) (machine 4)
      = some (some (.out (bytes [2, 3, 4, 1, 4, 4, 4, 4])), .done) := by decide
theorem test_ecb_dec_unpads :
    pulled kRotl .ecb .dec (source [[3, 3, 3, 5]] .eof) (machine 4) = some (some (.out (bytes [5])), .done) := by decide
/-- spec/42 R124, the stream of R123 with a byte too many: the payload before the fault stands (spec/30 R85). -/
theorem test_stream_ends_in_fault :
    streamResult kRotl .ecb .dec (source [[2, 3, 4, 1], [3, 3, 3, 5], [9]] .eof) (machine 4)
      = some ⟨[bytes [1, 2, 3, 4], bytes [5, 3, 3, 3]], .fault .blockLength⟩ := by decide
/-- spec/43 R133: the elements one by one, the IV first. -/
theorem test_stream_elements :
    streamResult kRotl .cbc .enc (source [[1, 2, 3, 4], [5]] .eof) cbcMachine
      = some ⟨[bytes [0x10, 0x20, 0x30, 0x40], bytes [0x22, 0x33, 0x44, 0x11], bytes [0x30, 0x47, 0x12, 0x27]],
          .done none⟩ := by decide
theorem test_cbc_enc_iv_first :
    pulled kRotl .cbc .enc (source [] .failure) cbcMachine
      = some (some (.out (bytes [0x10, 0x20, 0x30, 0x40])), .chaining) := by decide
theorem test_cbc_dec_chains :
    pulled kRotl .cbc .dec (source [[0x10, 0x20, 0x30, 0x40], [0x22, 0x33, 0x44, 0x11], [0x30, 0x47, 0x12, 0x27]] .eof)
      (machine 4) = some (some (.out (bytes [1, 2, 3, 4])), .chaining) := by decide
theorem test_cbc_dec_iv_alone :
    pulled kRotl .cbc .dec (source [[0x10, 0x20, 0x30, 0x40]] .eof) (machine 4)
      = some (some (.fault .stream), .faulted) := by decide
theorem test_ctr_enc_keystream :
    pulled kRotl .ctr .enc (source [[1, 2, 3, 4], [5, 6]] .eof) ctrMachine
      = some (some (.out (bytes [0xBA, 0x02, 0x03, 0xAE])), .chaining) := by decide
theorem test_ctr_dec_short_chunk :
    pulled kRotl .ctr .dec (source [[0xBB, 0x02]] .eof) ctrMachine = some (some (.out (bytes [0x00, 0x02])), .done) := by
  decide
theorem test_start_cbc_enc_no_iv :
    (startWith kRotl .cbc .enc (machine 4)).responses.head? = some (.fault .configuration) := by decide
theorem test_start_ctr_nonce_too_long :
    (startWith kRotl .ctr .enc { ctrMachine with cw := some 3 }).fault = some .configuration := by decide

set_option maxRecDepth 100000 in
/-- spec/95 section 7.1, step 4. -/
theorem test_start_aead_enc_registers :
    let t := startWith kXr .aead .enc aeadMachine
    (t.acc, t.h, t.ek) =
      (some ⟨64, 0x555555555746508F⟩, some ⟨64, 0x5A5A5A5A5A5A5A5A⟩, some ⟨64, 0xFBF8F95A5A5A5AFA⟩) := by decide

/-- spec/95 section 7.1, the state before step 6. -/
def aeadEncBlock1 : State :=
  setPhase .chaining
    (startWith kXr .aead .enc
      { aeadMachine with sources := [source [[0, 1, 2, 3, 4, 5, 6, 7], [8, 9, 10, 11, 12, 13, 14, 15]] .eof] })

set_option maxRecDepth 100000 in
theorem test_aead_enc_block :
    after (fun t => (t.responses.head?, t.acc)) (pullWith kXr aeadEncBlock1)
      = some (some (.out (bytes [0xFB, 0xF9, 0xFB, 0x59, 0x5E, 0x5F, 0x5D, 0xFD])), some ⟨64, 0xDADA5E474EEF6CC7⟩) := by
  decide

/-- spec/95 section 7.1, the state before step 8. -/
def aeadEncTagState : State :=
  { startWith kXr .aead .enc aeadMachine with
    phase := .final
    acc := some ⟨64, 0x3E97475FC6FEAB41⟩
    ctr := some 3
    blkcnt := some 2
    seq := .exhausted }

set_option maxRecDepth 100000 in
theorem test_aead_enc_tag :
    after (fun t => (t.responses.head?, t.acc)) (pullWith kXr aeadEncTagState)
      = some (some (.out (bytes [0x3B, 0xC8, 0x32, 0x63, 0x12, 0x30, 0x65, 0xD5])), some ⟨64, 0xC030CB39486A3F2F⟩) := by
  decide

set_option maxRecDepth 100000 in
/-- spec/95 section 7.3: a stream of header block and tag block alone. -/
theorem test_aead_dec_empty_verifies :
    pulled kXr .aead .dec
      (source [[0, 0, 0, 0, 0, 0xC0, 0xC1, 0xC2], [0x34, 0x37, 0x36, 0x9D, 0xDE, 0x22, 0x34, 0x03]] .eof) aeadMachine
      = some (some (.done (some true)), .done) := by decide
theorem test_aead_dec_no_tag :
    pulled kXr .aead .dec (source [[0, 0, 0, 0, 0, 0xC0, 0xC1, 0xC2]] .eof) aeadMachine
      = some (some (.fault .stream), .faulted) := by decide

theorem test_abandon : after State.phase (exec .abandon (setPhase .final (machine 4))) = some .idle := by decide
theorem test_cfgWr_frozen :
    answerOf (exec (.cfgWr .cw (.int 2)) (setPhase .chaining (machine 4))) = some .rejected := by decide
theorem test_cfgWr_unchecked : after State.cw (exec (.cfgWr .cw (.int 1000)) (machine 4)) = some (some 1000) := by decide
theorem test_regRd_no_value : answerOf (exec (.regRd .ctr) (machine 4)) = some .rejected := by decide
theorem test_regRd_verify :
    answerOf (exec (.regRd .verify) (setVerify ⟨true, false⟩ (machine 4))) = some (.value (.bits2 0b10)) := by decide

/-! ### Witnesses: states and operands that meet the hypotheses of the obligations, clause by clause -/

theorem witness_EncodeThenDecode : (Instr.feMult ⟨8, 0xFF⟩ ⟨8, 0⟩ (some [8, 0])).wf = true := by decide

theorem witness_DecodedCommand : ∃ c i, decode c = .ok i :=
  ⟨⟨0x0609, [.poly none]⟩, .cfgWr .poly (.poly none), by decide⟩

theorem witness_ReservedWords_rejected : ∃ (w : CmdWord) (s : State), reservedWord w ∧ s.pending = ⟨w, []⟩ :: [] :=
  ⟨0x0022, { machine 4 with pending := [⟨0x0022, []⟩] }, by unfold reservedWord isRegNumber; decide, rfl⟩

theorem witness_ReservedWords_rows :
    ∃ (w : CmdWord) (a b : TableRow), a ∈ opcodeTable ∧ b ∈ opcodeTable ∧ a.matchesWord w = true ∧ b.matchesWord w = true :=
  ⟨0xFF09, ⟨"CFG.WR", 0x0009, 0x00FF⟩, ⟨"CFG.WR", 0x0009, 0x00FF⟩, by decide, by decide, by decide, by decide⟩

theorem witness_StepRuns_issued :
    ∃ (s : State) (c : Command) (i : Instr), s.pending = c :: [] ∧ decode c = .ok i :=
  ⟨{ machine 4 with pending := [⟨0x0007, []⟩] }, ⟨0x0007, []⟩, .pull, rfl, by decide⟩

theorem witness_StepRuns_none : State.reset.pending = [] := rfl

theorem witness_FeToint :
    ∃ t, exec (.feNew 8 0xFF) State.reset = .next t ∧ t.responses = .elem ⟨8, 0xFF⟩ :: State.reset.responses :=
  ⟨_, rfl, rfl⟩

theorem witness_FeNew : 1 ≤ 1 ∧ 0xFF < 2 ^ 8 ∧ ¬ 0x100 < 2 ^ 8 := by decide

theorem witness_FeXor :
    (⟨8, 0xFF⟩ : Elem).wf = true ∧ (⟨8, 0x80⟩ : Elem).wf = true ∧ (⟨8, 0xFF⟩ : Elem).n = (⟨8, 0x80⟩ : Elem).n := by decide

theorem witness_Selpoly : 16 ∉ [8, 64, 128, 256, 512] := by decide

theorem witness_FeMultFaults_widths : (⟨8, 1⟩ : Elem).n ≠ (⟨64, 1⟩ : Elem).n := by decide

theorem witness_FeMultFaults_polynomial :
    (⟨8, 1⟩ : Elem).n = (⟨8, 1⟩ : Elem).n ∧ selPoly 8 (some [7, 1, 0]) = .error .configuration := by decide

theorem witness_FeMultIsTheProduct :
    (⟨8, 0xFF⟩ : Elem).wf = true ∧ (⟨8, 0x80⟩ : Elem).wf = true ∧ selPoly 8 none = .ok [8, 4, 3, 1, 0] := by decide

theorem witness_FeMultNeverViolates : ∃ t, exec (.feMult ⟨8, 0xFF⟩ ⟨8, 0xFF⟩ none) State.reset = .next t := ⟨_, rfl⟩

theorem witness_FeMultCommutes : (⟨8, 0x57⟩ : Elem).wf = true ∧ (⟨64, 1⟩ : Elem).wf = true := by decide

theorem witness_FieldEngineCornerCases :
    (⟨1, 1⟩ : Elem).wf = true ∧ selPoly 1 (some [1, 0]) = .ok [1, 0] ∧
    (⟨2, 3⟩ : Elem).wf = true ∧ selPoly 2 (some [2, 1, 0]) = .ok [2, 1, 0] ∧ 2 ≤ 2 := by decide

theorem witness_FieldEngineIsPure : ∃ n v, Instr.feNew 8 1 = .feNew n v := ⟨8, 1, rfl⟩

theorem witness_SeqNextCommand_rejected : (setPhase .done (machine 4)).phase ≠ .idle := by decide

theorem witness_SeqNextCommand_item :
    (onSource (source [[1, 2, 3, 4]] .eof) (machine 4)).phase = .idle ∧
    sourceFits (onSource (source [[1, 2, 3, 4]] .eof) (machine 4)) = true := by decide

theorem witness_SeqNextFollows_unprimed :
    (machine 4).seq = .unprimed ∧
    attachedSource (onSource (source [] .eof) (machine 4)) = ⟨[], .eof⟩ ∧
    attachedSource (onSource (source [[1]] .failure) (machine 4)) = ⟨[bytes [1]], .failure⟩ ∧
    attachedSource (onSource (source [[1, 2], [3, 4], [5]] .failure) (machine 2))
      = ⟨bytes [1, 2] :: bytes [3, 4] :: [bytes [5]], .failure⟩ := by decide

theorem witness_SeqNextFollows_primed :
    (setSeq (.primed [1]) (machine 2)).seq = .primed [1] ∧
    attachedSource (onSource (source [] .failure) (setSeq (.primed [1]) (machine 2))) = ⟨[], .failure⟩ ∧
    attachedSource (onSource (source [[2]] .eof) (setSeq (.primed [1]) (machine 2))) = ⟨[bytes [2]], .eof⟩ ∧
    (setSeq .exhausted (machine 2)).seq = .exhausted ∧ (setSeq .failed (machine 2)).seq = .failed := by decide

theorem witness_SequencerDelivers :
    0 < (machine 4).bsize ∧ (machine 4).seq = .unprimed ∧
    attachedSource (onSource (sourceOf 4 (bytes [1, 2, 3, 4, 5])) (machine 4)) = sourceOf 4 (bytes [1, 2, 3, 4, 5]) := by
  decide

theorem witness_FrameCuts : 0 < 4 ∧ frame 4 (bytes [1, 2, 3, 4, 5]) = [(bytes [1, 2, 3, 4], false), (bytes [5], true)] := by
  decide

theorem witness_FailingSource :
    (machine 4).seq = .unprimed ∧
    attachedSource (onSource (source [[1, 2, 3, 4], [5, 6, 7, 8]] .failure) (machine 4))
      = ⟨[bytes [1, 2, 3, 4], bytes [5, 6, 7, 8]], .failure⟩ := by decide

theorem witness_StartCbcEnc_iv :
    cbcMachine.iv = some (bytes [0x10, 0x20, 0x30, 0x40]) ∧ (bytes [0x10, 0x20, 0x30, 0x40]).length = cbcMachine.bsize := by
  decide

theorem witness_StartCbcEnc_refused :
    (∀ iv, (machine 4).iv = some iv → iv.length ≠ (machine 4).bsize) ∧
    (∀ iv, { machine 4 with iv := some [1, 2, 3] }.iv = some iv → iv.length ≠ 4) := by
  refine ⟨nofun, ?_⟩
  rintro _ ⟨⟩
  decide

theorem witness_StartCtr_ok :
    ctrMachine.nonce = some (bytes [0xAA, 0xBB]) ∧ ctrMachine.cw = some 2 ∧
    (bytes [0xAA, 0xBB]).length + 2 = ctrMachine.bsize := by decide

theorem witness_StartCtr_refused :
    ∀ nonce cw, (machine 4).nonce = some nonce → (machine 4).cw = some cw → nonce.length + cw ≠ (machine 4).bsize := nofun

theorem witness_StartAead_ok :
    selPoly (8 * aeadMachine.bsize) aeadMachine.poly = .ok [64, 4, 3, 1, 0] ∧
    aeadMachine.nonce = some (bytes [0xA0, 0xA1, 0xA2, 0xA3]) ∧ aeadMachine.cw = some 4 ∧
    aeadMachine.header = some (bytes [0xC0, 0xC1, 0xC2]) ∧ aeadMachine.hlenCfg = some 3 ∧
    (bytes [0xA0, 0xA1, 0xA2, 0xA3]).length + 4 = aeadMachine.bsize ∧
    2 * (bytes [0xA0, 0xA1, 0xA2, 0xA3]).length = aeadMachine.bsize ∧ 3 ≤ aeadMachine.bsize := by decide

theorem witness_StartAeadEnc_refused :
    ∀ nonce header cw p, selPoly (8 * (machine 8).bsize) (machine 8).poly = .ok p → (machine 8).nonce = some nonce →
      (machine 8).cw = some cw → (machine 8).header = some header →
      ¬ (nonce.length + cw = (machine 8).bsize ∧ 2 * nonce.length = (machine 8).bsize ∧
        header.length ≤ (machine 8).bsize) := nofun

theorem witness_StartAeadDec_refused :
    ∀ nonce cw hl p, selPoly (8 * (machine 8).bsize) (machine 8).poly = .ok p → (machine 8).nonce = some nonce →
      (machine 8).cw = some cw → (machine 8).hlenCfg = some hl →
      ¬ (nonce.length + cw = (machine 8).bsize ∧ 2 * nonce.length = (machine 8).bsize ∧ hl ≤ (machine 8).bsize) := nofun

theorem witness_PullWithout :
    (machine 4).phase = .idle ∧ (setPhase .done (machine 4)).phase = .done ∧
    (enterFault .range (machine 4)).phase = .faulted ∧ (enterFault .range (machine 4)).fault = some .range := by decide

/-- A session of any kind, in any phase, on a source, with block size 2. -/
def inSession (m : Mode) (d : Dir) (p : Phase) (src : Source) : State :=
  { machine 2 with
    mode := some m
    dir := some d
    phase := p
    src := some src
    nonce := some (bytes [0xA0])
    cw := some 1
    cv := some (bytes [1, 2])
    ctr := some 1 }

theorem witness_PullFaults :
    sourceFits (inSession .cbc .enc .chaining (source [[1, 2]] .failure)) = true ∧
    (seqNext (inSession .cbc .enc .chaining (source [[1, 2]] .failure))).2 = .failed ∧
    (seqNext (inSession .aead .dec .start (source [] .failure))).2 = .failed := by decide

/-- The item a session gets from a source in one step: full or short, last or not. -/
theorem witness_Pull_items :
    (∀ m d p, sourceFits (inSession m d p (source [[1, 2], [3]] .eof)) = true) ∧
    (∀ m d p, (seqNext (inSession m d p (source [[1, 2], [3]] .eof))).2 = .item (bytes [1, 2]) false) ∧
    (∀ m d p, (seqNext (inSession m d p (source [[1], [3]] .eof))).2 = .item (bytes [1]) false) ∧
    (∀ m d p, (seqNext (inSession m d p (source [[1, 2]] .eof))).2 = .item (bytes [1, 2]) true) ∧
    (∀ m d p, (seqNext (inSession m d p (source [[1]] .eof))).2 = .item (bytes [1]) true) := by
  refine ⟨?_, ?_, ?_, ?_, ?_⟩ <;> intro m d p <;> rfl

/-- With `witness_Pull_items`: what PullEcbEncrypt, PullEcbDecrypt, PullCbcEncrypt, PullCbcDecrypt ask of the state. -/
theorem witness_Pull_state (m : Mode) (d : Dir) (p : Phase) (src : Source) :
    (inSession m d p src).phase = p ∧ (inSession m d p src).mode = some m ∧ (inSession m d p src).dir = some d ∧
    (inSession m d p src).cv = some (bytes [1, 2]) ∧ (bytes [1, 2]).length = (inSession m d p src).bsize ∧
    (bytes [1]).length ≠ (inSession m d p src).bsize := ⟨rfl, rfl, rfl, rfl, rfl, by show 1 ≠ 2; decide⟩

/-- Both sides of the counter's bound, for PullCtr. -/
theorem witness_PullCtr :
    255 < 2 ^ (8 * 1) ∧ 2 ^ (8 * 1) ≤ 256 ∧
    (setCtr 255 (inSession .ctr .enc .chaining (source [[1]] .eof))).ctr = some 255 ∧
    (setCtr 256 (inSession .ctr .dec .chaining (source [[1]] .eof))).ctr = some 256 ∧
    (seqNext (setCtr 256 (inSession .ctr .dec .chaining (source [[1]] .eof)))).2 = .item (bytes [1]) true := by decide

/-! #### AEAD sessions that meet the invariant -/

/-- An AEAD session with block size 2, counter `n + 1` and hash subkey `hk`. -/
def inAead (d : Dir) (p : Phase) (acc : Option Elem) (hk n : Nat) (q : Sequencer) (src : Source) : State :=
  { machine 2 with
    nonce := some (bytes [0xA0])
    cw := some 1
    header := some (bytes [0xC1])
    poly := some [16, 5, 3, 1, 0]
    mode := some .aead
    dir := some d
    phase := p
    acc := acc
    h := some ⟨16, hk⟩
    ek := some ⟨16, 3⟩
    ctr := some (n + 1)
    blkcnt := some n
    hlen := some 1
    seq := q
    src := some src }

/-- What every such session has in common. -/
theorem inAead_inv {d : Dir} {p : Phase} {acc : Option Elem} {hk n : Nat} {q : Sequencer} {src : Source}
    (hp : p.active = true) (hs : fitsBlock 2 src = true)
    (hq : ∀ la, q = .primed la → la.length ≤ 2) (hd : AeadActive d (inAead d p acc hk n q src)) :
    StateInv (inAead d p acc hk n q src) := by
  refine ⟨Nat.zero_lt_two, hs, by simp [inAead, machine, State.reset], hq, rfl, by simp [inAead, machine, State.reset], ?_⟩
  have : ActiveSession (inAead d p acc hk n q src) := ⟨.aead, d, rfl, rfl, hd⟩
  unfold SessionOk
  revert this hp
  cases p <;> simp [Phase.active] <;> exact fun h => ⟨rfl, rfl, h⟩

theorem inAead_data (d : Dir) (p : Phase) (acc : Option Elem) {hk n : Nat} (q : Sequencer) (src : Source)
    (hh : hk < 2 ^ 16) (hn : n + 1 ≤ 2 ^ 8) :
    (inAead d p acc hk n q src).cv = none ∧ CounterOk (inAead d p acc hk n q src) ∧
    AeadData (inAead d p acc hk n q src) ∧ AeadConfig (inAead d p acc hk n q src) :=
  ⟨rfl, ⟨_, _, _, rfl, rfl, rfl, rfl, hn⟩, ⟨⟨_, _, rfl, rfl, ⟨rfl, hh⟩, rfl, by show 3 < 2 ^ 16; decide⟩, ⟨n, rfl, rfl⟩, 1, rfl,
      by show 1 ≤ 2; decide⟩,
    ⟨[16, 5, 3, 1, 0], rfl⟩, _, rfl, rfl⟩

theorem inAead_chaining (d : Dir) {hk n : Nat} {src : Source} (hh : hk < 2 ^ 16) (hn : n + 1 ≤ 2 ^ 8)
    (hs : fitsBlock 2 src = true) : StateInv (inAead d .chaining (some ⟨16, 7⟩) hk n .unprimed src) := by
  obtain ⟨h1, h2, h3, h4⟩ := inAead_data d .chaining (some ⟨16, 7⟩) .unprimed src hh hn
  refine inAead_inv rfl hs nofun ⟨h1, h2, h3, h4, ?_⟩
  cases d <;> exact ⟨⟨_, rfl, rfl, by show 7 < 2 ^ 16; decide⟩, .inl rfl⟩

theorem inAead_final {hk n : Nat} {src : Source} (hh : hk < 2 ^ 16) (hn : n + 1 ≤ 2 ^ 8)
    (hs : fitsBlock 2 src = true) : StateInv (inAead .enc .final (some ⟨16, 7⟩) hk n .exhausted src) := by
  obtain ⟨h1, h2, h3, h4⟩ := inAead_data .enc .final (some ⟨16, 7⟩) .exhausted src hh hn
  exact inAead_inv rfl hs nofun ⟨h1, h2, h3, h4, ⟨_, rfl, rfl, by show 7 < 2 ^ 16; decide⟩, rfl⟩

theorem inAead_start {hk n : Nat} {src : Source} (hh : hk < 2 ^ 16) (hn : n + 1 ≤ 2 ^ 8)
    (hs : fitsBlock 2 src = true) : StateInv (inAead .dec .start none hk n .unprimed src) := by
  obtain ⟨h1, h2, h3, h4⟩ := inAead_data .dec .start none .unprimed src hh hn
  exact inAead_inv rfl hs nofun ⟨h1, h2, h3, h4, rfl, rfl⟩

/-- The items of an AEAD session: a full chunk last or not, and a short one. -/
theorem inAead_items (d : Dir) (p : Phase) (acc : Option Elem) (hk n : Nat) :
    (seqNext (inAead d p acc hk n .unprimed (source [[1, 2], [3]] .eof))).2 = .item (bytes [1, 2]) false ∧
    (seqNext (inAead d p acc hk n .unprimed (source [[1, 2]] .eof))).2 = .item (bytes [1, 2]) true ∧
    (seqNext (inAead d p acc hk n .unprimed (source [[1], [3]] .eof))).2 = .item (bytes [1]) false :=
  ⟨rfl, rfl, rfl⟩

theorem witness_PullAeadEncrypt_first :
    let s := inAead .enc .start (some ⟨16, 7⟩) 5 0 .unprimed (source [[1, 2]] .eof)
    s.phase = .start ∧ s.mode = some .aead ∧ s.dir = some .enc ∧ s.header = some (bytes [0xC1]) := ⟨rfl, rfl, rfl, rfl⟩

/-- Data blocks with the counter at its last value, and one past it; the items are those of `inAead_items`. -/
theorem witness_PullAeadEncrypt_data :
    StateInv (inAead .enc .chaining (some ⟨16, 7⟩) 5 254 .unprimed (source [[1, 2]] .eof)) ∧ 255 < 2 ^ (8 * 1) ∧
    StateInv (inAead .enc .chaining (some ⟨16, 7⟩) 5 255 .unprimed (source [[1, 2]] .eof)) ∧ 2 ^ (8 * 1) ≤ 256 ∧
    StateInv (inAead .enc .chaining (some ⟨16, 7⟩) 5 0 .unprimed (source [[1], [3]] .eof)) :=
  ⟨inAead_chaining .enc (by decide) (by decide) (by decide), by decide,
    inAead_chaining .enc (by decide) (by decide) (by decide), by decide,
    inAead_chaining .enc (by decide) (by decide) (by decide)⟩

theorem witness_PullAeadTag :
    let s := inAead .enc .final (some ⟨16, 7⟩) 5 255 .exhausted (source [] .eof)
    StateInv s ∧ s.phase = .final ∧ s.mode = some .aead ∧ s.dir = some .enc ∧ s.acc = some ⟨16, 7⟩ ∧
    s.h = some ⟨16, 5⟩ ∧ s.ek = some ⟨16, 3⟩ ∧ s.blkcnt = some 255 ∧ s.hlen = some 1 :=
  ⟨inAead_final (by decide) (by decide) (by decide), rfl, rfl, rfl, rfl, rfl, rfl, rfl, rfl⟩

theorem witness_PullAeadHeader :
    StateInv (inAead .dec .start none 5 0 .unprimed (source [[1, 2], [3]] .eof)) ∧
    StateInv (inAead .dec .start none 5 0 .unprimed (source [[1, 2]] .eof)) ∧
    StateInv (inAead .dec .start none 5 0 .unprimed (source [[1], [3]] .eof)) :=
  ⟨inAead_start (by decide) (by decide) (by decide), inAead_start (by decide) (by decide) (by decide),
    inAead_start (by decide) (by decide) (by decide)⟩

theorem witness_PullAeadDecrypt :
    StateInv (inAead .dec .chaining (some ⟨16, 7⟩) 5 254 .unprimed (source [[1, 2], [3]] .eof)) ∧
    StateInv (inAead .dec .chaining (some ⟨16, 7⟩) 5 255 .unprimed (source [[1, 2], [3]] .eof)) ∧
    StateInv (inAead .dec .chaining (some ⟨16, 7⟩) 5 255 .unprimed (source [[1, 2]] .eof)) ∧
    StateInv (inAead .dec .chaining (some ⟨16, 7⟩) 5 0 .unprimed (source [[1], [3]] .eof)) :=
  ⟨inAead_chaining .dec (by decide) (by decide) (by decide), inAead_chaining .dec (by decide) (by decide) (by decide),
    inAead_chaining .dec (by decide) (by decide) (by decide), inAead_chaining .dec (by decide) (by decide) (by decide)⟩

/-! #### Registers, rules about every command, invariants -/

theorem witness_CfgWr :
    (machine 4).phase.active = false ∧ (enterFault .range (machine 4)).phase.active = false ∧
    (setPhase .start (machine 4)).phase = .start ∧ (setPhase .chaining (machine 4)).phase = .chaining ∧
    (setPhase .final (machine 4)).phase = .final ∧ Reg.bsize ∉ [.nonce, .cw, .iv, .header, .hlenCfg, .poly] := by decide

/-- A command that answers next, for the rules about every command. -/
theorem witness_EveryCommand : ∃ t, exec .abandon (machine 4) = .next t := ⟨_, rfl⟩

theorem witness_RejectedExactly :
    ∃ t, exec .pull (machine 4) = .next t ∧ t.responses = .rejected :: (machine 4).responses := ⟨_, rfl, rfl⟩

theorem witness_ConfigurationIsFrozen :
    (∃ t, exec .startCbcEnc cbcMachine = .next t) ∧ (∀ r x, Instr.startCbcEnc ≠ .cfgWr r x) ∧
    (setPhase .final cbcMachine).phase = .final := ⟨⟨_, rfl⟩, nofun, rfl⟩

/-- A source with a chunk longer than a block, where `SEQ.NEXT` and where a session reads it; ill-typed values. -/
theorem witness_StopsOnWhatTheTypesExclude :
    (onSource (source [[1], [1, 2, 3, 4, 5]] .eof) (machine 4)).phase = .idle ∧
    sourceFits (onSource (source [[1], [1, 2, 3, 4, 5]] .eof) (machine 4)) = false ∧
    sourceFits (inSession .aead .dec .start (source [[1, 2, 3]] .eof)) = false ∧
    (Value.int 3).kind ≠ Reg.nonce.kind ∧
    { machine 4 with pending := [⟨0x0001, []⟩] }.pending = ⟨0x0001, []⟩ :: [] ∧
    decode ⟨0x0001, []⟩ = .error .illTypedOperands ∧
    exec (.cfgWr .nonce (.int 3)) (machine 4) = .refused .operandsInexpressible :=
  ⟨by decide, by decide, by decide, by decide, rfl, by decide, rfl⟩

theorem witness_PhaseMoves : ∃ t, exec .startCbcDec (machine 4) = .next t ∧ t.phase = .start := ⟨_, rfl, rfl⟩

theorem witness_FaultEntry_start :
    ∃ t, exec .startCbcEnc (machine 4) = .next t ∧ t.responses = .fault .configuration :: (machine 4).responses ∧
      startsSession .startCbcEnc ≠ none := ⟨_, rfl, rfl, by decide⟩

theorem witness_FaultEntry_pull :
    let s := inSession .ecb .enc .chaining (source [] .failure)
    ∃ t, exec .pull s = .next t ∧ t.responses = .fault .stream :: s.responses ∧ s.phase.active = true := ⟨_, rfl, rfl, rfl⟩

theorem witness_FaultEntry_other :
    ∃ t, exec (.feNew 1 2) (machine 4) = .next t ∧ t.responses = .fault .range :: (machine 4).responses ∧
      startsSession (.feNew 1 2) = none := ⟨_, rfl, rfl, rfl⟩

set_option maxRecDepth 100000 in
theorem witness_Verify :
    let s := inAead .dec .chaining (some ⟨16, 7⟩) 5 0 .unprimed (source [[1, 2]] .eof)
    ∃ t, exec .pull s = .next t ∧ t.phase = .done ∧ t.verify.valid = true := ⟨_, rfl, rfl, rfl⟩

theorem witness_CtrAndAeadCallOnlyE :
    let s := inSession .ctr .enc .chaining (source [[1]] .eof)
    s.mode = some .ctr ∧ ∃ t, exec .pull s = .next t := ⟨rfl, _, rfl⟩

theorem witness_CtrDirection :
    let s := inSession .ctr .enc .chaining (source [[1]] .eof)
    s.mode = some .ctr ∧ s.dir ≠ none ∧ ∃ t, exec .pull s = .next t := ⟨rfl, by decide, _, rfl⟩

/-- The invariant holds of the machine after reset, whatever the block size. -/
theorem machine_inv (n : Nat) (h : 0 < n) : StateInv (machine n) := by
  refine ⟨h, rfl, by simp [machine, State.reset], by simp [machine, State.reset], rfl, by simp [machine, State.reset], ?_⟩
  simp [SessionOk, NoData, machine, State.reset, Verify.clear]

theorem witness_EveryStepKeeps : StateInv (machine 4) ∧ ∃ t, step (machine 4) = .next t :=
  ⟨machine_inv 4 (by decide), _, rfl⟩

theorem witness_NoStepIsStuck :
    StateInv (inAead .dec .chaining (some ⟨16, 7⟩) 5 255 .unprimed (source [[1, 2]] .eof)) :=
  inAead_chaining .dec (by decide) (by decide) (by decide)

theorem witness_LengthElementFits :
    let s := inAead .enc .final (some ⟨16, 7⟩) 5 255 .exhausted (source [] .eof)
    StateInv s ∧ s.phase.active = true ∧ s.mode = some .aead ∧ s.hlen = some 1 ∧ s.blkcnt = some 255 :=
  ⟨inAead_final (by decide) (by decide) (by decide), rfl, rfl, rfl, rfl⟩

theorem witness_ZeroSubkey :
    let s := inAead .enc .final (some ⟨16, 7⟩) 0 2 .exhausted (source [] .eof)
    StateInv s ∧ s.phase = .final ∧ s.mode = some .aead ∧ s.dir = some .enc ∧ s.h = some ⟨8 * s.bsize, 0⟩ ∧
    s.ek = some ⟨16, 3⟩ := ⟨inAead_final (by decide) (by decide) (by decide), rfl, rfl, rfl, rfl, rfl⟩

theorem witness_SessionEnds :
    let s := inAead .enc .chaining (some ⟨16, 7⟩) 5 0 .unprimed (source [[1, 2], [3, 4]] .eof)
    StateInv s ∧ s.phase.active = true := ⟨inAead_chaining .enc (by decide) (by decide) (by decide), rfl⟩

theorem witness_SessionEnds_stream : StateInv (machine 4) ∧ fitsBlock (machine 4).bsize (source [[1, 2, 3, 4], []] .failure) = true :=
  ⟨machine_inv 4 (by decide), by decide⟩

theorem witness_Verify_start : startsSession .startCtrDec ≠ none ∧ ∃ t, exec .startCtrDec (machine 4) = .next t :=
  ⟨by decide, _, rfl⟩

/-! #### Whole streams -/

theorem kId_inverts (n : Nat) : Inverts kId n := fun _ => rfl

/-- `PADK` is last-block local for blocks of two bytes. -/
theorem kId_lastBlockLocal : LastBlockLocal kId 2 := by
  intro c hc
  match c, hc with
  | [], _ => exact .inl (by decide)
  | [b], _ => exact .inl ⟨rfl, rfl⟩
  | [b, d], _ => exact .inr ⟨by simp [kId, padk], by simp [kId, padk, unpadk]⟩

theorem witness_EcbRoundTrip : 0 < (machine 2).bsize ∧ Inverts kId (machine 2).bsize ∧ LastBlockLocal kId (machine 2).bsize :=
  ⟨by decide, kId_inverts 2, kId_lastBlockLocal⟩

theorem witness_CbcRoundTrip :
    let s := { machine 2 with iv := some (bytes [1, 2]) }
    0 < s.bsize ∧ s.iv = some (bytes [1, 2]) ∧ (bytes [1, 2]).length = s.bsize ∧ Inverts kId s.bsize ∧
    LastBlockLocal kId s.bsize := ⟨by decide, rfl, rfl, kId_inverts 2, kId_lastBlockLocal⟩

theorem witness_CtrRoundTrip :
    0 < ctrMachine.bsize ∧ ctrMachine.nonce = some (bytes [0xAA, 0xBB]) ∧ ctrMachine.cw = some 2 ∧
    (bytes [0xAA, 0xBB]).length + 2 = ctrMachine.bsize ∧
    (frame ctrMachine.bsize (bytes [1, 2, 3, 4, 5])).length ≤ 2 ^ (8 * 2) := by decide

theorem witness_AeadRoundTrip :
    selPoly (8 * aeadMachine.bsize) aeadMachine.poly = .ok [64, 4, 3, 1, 0] ∧
    aeadMachine.nonce = some (bytes [0xA0, 0xA1, 0xA2, 0xA3]) ∧ aeadMachine.cw = some 4 ∧
    aeadMachine.header = some (bytes [0xC0, 0xC1, 0xC2]) ∧
    (bytes [0xA0, 0xA1, 0xA2, 0xA3]).length + 4 = aeadMachine.bsize ∧
    2 * (bytes [0xA0, 0xA1, 0xA2, 0xA3]).length = aeadMachine.bsize ∧
    (bytes [0xC0, 0xC1, 0xC2]).length ≤ aeadMachine.bsize ∧
    aeadMachine.hlenCfg = some (bytes [0xC0, 0xC1, 0xC2]).length ∧
    bytes [0, 1, 2, 3, 4, 5, 6, 7] ≠ [] ∧ (bytes [0, 1, 2, 3, 4, 5, 6, 7]).length % aeadMachine.bsize = 0 ∧
    (bytes [0, 1, 2, 3, 4, 5, 6, 7]).length / aeadMachine.bsize < 2 ^ (8 * 4) := by decide

end Sys2Proof.Tests
end

section
/-!
PROOFS. The parts of the invariant (spec/10_state.md R20 to R37): what the ports and the configuration carry through every
step, and how the session registers make an active, an ended or a faulted session.
-/

namespace Sys2Proof.Machine

/-! ### What no session register touches -/

/-- The clauses of `StateInv` about the block size, the sources, the lookahead, `POLY` and the issued commands. -/
structure InputsOk (s : State) : Prop where
  block : 0 < s.bsize
  source : sourceFits s = true
  sources : ∀ src ∈ s.sources, fitsBlock s.bsize src = true
  lookahead : ∀ la, s.seq = .primed la → la.length ≤ s.bsize
  poly : polyWf s.poly = true
  commands : ∀ c ∈ s.pending, decode c ≠ .error .illTypedOperands

/-- The fields that `InputsOk` speaks of. -/
def inputFields (s : State) : Nat × Option Source × List Source × Sequencer × Option ExpSet × List Command :=
  (s.bsize, s.src, s.sources, s.seq, s.poly, s.pending)

theorem stateInv_iff {s : State} : StateInv s ↔ InputsOk s ∧ SessionOk s :=
  ⟨fun ⟨b, so, ss, l, p, c, se⟩ => ⟨⟨b, so, ss, l, p, c⟩, se⟩,
    fun ⟨⟨b, so, ss, l, p, c⟩, se⟩ => ⟨b, so, ss, l, p, c, se⟩⟩

theorem StateInv.inputsOk {s : State} (h : StateInv s) : InputsOk s := (stateInv_iff.1 h).1

theorem InputsOk.congr {s t : State} (h : InputsOk s) (e : inputFields t = inputFields s) : InputsOk t := by
  simp only [inputFields, Prod.mk.injEq] at e
  obtain ⟨hb, hsrc, hss, hq, hp, hc⟩ := e
  exact ⟨hb ▸ h.block, by simpa only [sourceFits, hb, hsrc] using h.source, by simpa only [hb, hss] using h.sources,
    by simpa only [hb, hq] using h.lookahead, hp ▸ h.poly, hc ▸ h.commands⟩

theorem InputsOk.seqNext {s : State} (h : InputsOk s) : InputsOk (seqNext s).1 := by
  obtain ⟨hs, hl, -⟩ := seqNext_fits h.source h.lookahead
  exact ⟨by simpa using h.block, hs, by simpa using h.sources, by simpa using hl, by simpa using h.poly,
    by simpa using h.commands⟩

/-- An answer is outside the invariant. -/
theorem StateInv.respond {s : State} (h : StateInv s) (r : Response) : StateInv (respond r s) :=
  stateInv_iff.2 ⟨h.inputsOk.congr rfl, h.session⟩

/-! ### `SessionOk` by phase -/

theorem sessionOk_of_active {s : State} (hp : s.phase.active = true) :
    SessionOk s ↔ s.fault = none ∧ s.verify = Verify.clear ∧ ActiveSession s := by
  unfold SessionOk
  cases h : s.phase <;> simp_all [Phase.active]

theorem sessionOk_of_idle {s : State} (hp : s.phase = .idle) :
    SessionOk s ↔ s.mode = none ∧ s.dir = none ∧ s.fault = none ∧ s.verify = Verify.clear ∧ NoData s := by
  simp [SessionOk, hp]

theorem sessionOk_of_done {s : State} (hp : s.phase = .done) : SessionOk s ↔ s.fault = none ∧ EndedSession s := by
  simp [SessionOk, hp]

theorem sessionOk_of_faulted {s : State} (hp : s.phase = .faulted) :
    SessionOk s ↔ s.fault ≠ none ∧ s.mode ≠ none ∧ s.dir ≠ none ∧ s.verify = Verify.clear ∧ NoData s := by
  simp [SessionOk, hp]

/-! ### A session of a given mode and direction -/

/-- What a session in progress holds, by its mode: the body of `ActiveSession`. -/
def KindActive (m : Mode) (d : Dir) (s : State) : Prop :=
  match m with
  | .ecb => EcbActive s
  | .cbc => CbcActive d s
  | .ctr => CtrActive s
  | .aead => AeadActive d s

/-- What an ended session holds, by its mode: the last clause of `EndedSession`. -/
def KindEnded (m : Mode) (s : State) : Prop :=
  match m with
  | .ecb => NoData s
  | .cbc => NoData s
  | .ctr => s.cv = none ∧ NoAead s ∧ ∃ c, s.ctr = some (c + 1)
  | .aead => s.cv = none ∧ AeadData s ∧ AccOk s

/-- A session of this mode and direction that has neither faulted nor verified. -/
structure InSession (m : Mode) (d : Dir) (s : State) : Prop where
  inputs : InputsOk s
  fault : s.fault = none
  verify : s.verify = Verify.clear
  mode : s.mode = some m
  dir : s.dir = some d

/-- The fields that `InSession` speaks of. -/
def sessionFields (s : State) :=
  (inputFields s, s.fault, s.verify, s.mode, s.dir)

theorem InSession.congr {m : Mode} {d : Dir} {s t : State} (h : InSession m d s)
    (e : sessionFields t = sessionFields s := by simp [sessionFields, inputFields]) : InSession m d t := by
  simp only [sessionFields, Prod.mk.injEq] at e
  obtain ⟨hi, hf, hv, hm, hd⟩ := e
  exact ⟨h.inputs.congr hi, hf.trans h.fault, hv.trans h.verify, hm.trans h.mode, hd.trans h.dir⟩

theorem InSession.seqNext {m : Mode} {d : Dir} {s : State} (h : InSession m d s) : InSession m d (seqNext s).1 :=
  ⟨h.inputs.seqNext, by simpa using h.fault, by simpa using h.verify, by simpa using h.mode, by simpa using h.dir⟩

/-- In an active phase the invariant gives the session and what its kind holds. -/
theorem StateInv.inSession {m : Mode} {d : Dir} {s : State} (h : StateInv s) (hp : s.phase.active = true)
    (hm : s.mode = some m) (hd : s.dir = some d) : InSession m d s ∧ KindActive m d s := by
  obtain ⟨hf, hv, m', d', hm', hd', hk⟩ := (sessionOk_of_active hp).1 h.session
  obtain rfl : m = m' := Option.some.inj (hm.symm.trans hm')
  obtain rfl : d = d' := Option.some.inj (hd.symm.trans hd')
  exact ⟨⟨h.inputsOk, hf, hv, hm, hd⟩, hk⟩

theorem seq_of_sessionFields {s t : State} (e : sessionFields t = sessionFields s) : t.seq = s.seq := by
  simp only [sessionFields, inputFields, Prod.mk.injEq] at e
  obtain ⟨⟨-, -, -, hq, -⟩, -⟩ := e
  exact hq

/-- A session ends without an outcome in `VERIFY`, unless it is AEAD decrypt (R31). -/
theorem InSession.ended {m : Mode} {d : Dir} {s t : State} (h : InSession m d s) (hmd : ¬ (m = .aead ∧ d = .dec))
    (hq : s.seq = .exhausted) (hk : KindEnded m t) (hp : t.phase = .done := by simp)
    (e : sessionFields t = sessionFields s := by simp [sessionFields, inputFields]) : StateInv t :=
  have ht := h.congr e
  stateInv_iff.2 ⟨ht.inputs, (sessionOk_of_done hp).2 ⟨ht.fault, m, d, ht.mode, ht.dir,
    (seq_of_sessionFields e).trans hq, by simp [ht.verify, Verify.clear, hmd], by simp [ht.verify, Verify.clear], hk⟩⟩

/-- An AEAD decrypt session ends with the outcome in `VERIFY` (R162). -/
theorem InSession.verified {s : State} {v : Verify} (h : InSession .aead .dec s) (hv : v.valid = true)
    (hq : s.seq = .exhausted) (hk : KindEnded .aead s) : StateInv (setPhase .done (setVerify v s)) :=
  stateInv_iff.2 ⟨h.inputs.congr rfl, (sessionOk_of_done rfl).2
    ⟨h.fault, .aead, .dec, h.mode, h.dir, hq, hv, fun _ => hv, hk⟩⟩

/-- Taking a fault in a session (R197). -/
theorem InSession.faulted {m : Mode} {d : Dir} {s t : State} (h : InSession m d s) (x : FaultClass)
    (e : sessionFields t = sessionFields s := by simp [sessionFields, inputFields]) : StateInv (enterFault x t) :=
  have ht := h.congr e
  stateInv_iff.2 ⟨ht.inputs.congr rfl, (sessionOk_of_faulted rfl).2
    ⟨by simp, by simp [ht.mode], by simp [ht.dir], ht.verify, rfl, rfl, rfl, rfl, rfl, rfl, rfl⟩⟩

/-! ### What a session in progress holds, by kind and phase (R29) -/

theorem kindActive_ecb {d : Dir} {s : State} : KindActive .ecb d s ↔ s.phase = .chaining ∧ NoData s ∧ ItemsLeft s :=
  Iff.rfl

theorem kindActive_cbc_enc_start {s : State} (hp : s.phase = .start) :
    KindActive .cbc .enc s ↔ s.ctr = none ∧ NoAead s ∧ OneBlock s s.cv ∧ s.seq = .unprimed := by
  simp [KindActive, CbcActive, hp]

theorem kindActive_cbc_dec_start {s : State} (hp : s.phase = .start) :
    KindActive .cbc .dec s ↔ s.ctr = none ∧ NoAead s ∧ s.cv = none ∧ s.seq = .unprimed := by
  simp [KindActive, CbcActive, hp]

theorem kindActive_cbc_chaining {d : Dir} {s : State} (hp : s.phase = .chaining) :
    KindActive .cbc d s ↔ s.ctr = none ∧ NoAead s ∧ OneBlock s s.cv ∧ ItemsLeft s := by
  cases d <;> simp [KindActive, CbcActive, hp]

theorem kindActive_ctr {d : Dir} {s : State} :
    KindActive .ctr d s ↔ s.phase = .chaining ∧ s.cv = none ∧ NoAead s ∧ CounterOk s ∧ ItemsLeft s :=
  Iff.rfl

/-- What every phase of an AEAD session holds. -/
def AeadShared (s : State) : Prop := s.cv = none ∧ CounterOk s ∧ AeadData s ∧ AeadConfig s

theorem kindActive_aead_enc_start {s : State} (hp : s.phase = .start) :
    KindActive .aead .enc s ↔
      AeadShared s ∧ (∃ hd, s.header = some hd ∧ hd.length ≤ s.bsize) ∧ AccOk s ∧ s.seq = .unprimed := by
  simp [KindActive, AeadActive, AeadShared, hp, and_assoc]

theorem kindActive_aead_dec_start {s : State} (hp : s.phase = .start) :
    KindActive .aead .dec s ↔ AeadShared s ∧ s.acc = none ∧ s.seq = .unprimed := by
  simp [KindActive, AeadActive, AeadShared, hp, and_assoc]

theorem kindActive_aead_chaining {d : Dir} {s : State} (hp : s.phase = .chaining) :
    KindActive .aead d s ↔ AeadShared s ∧ AccOk s ∧ ItemsLeft s := by
  cases d <;> simp [KindActive, AeadActive, AeadShared, hp, and_assoc]

theorem kindActive_aead_enc_final {s : State} (hp : s.phase = .final) :
    KindActive .aead .enc s ↔ AeadShared s ∧ AccOk s ∧ s.seq = .exhausted := by
  simp [KindActive, AeadActive, AeadShared, hp, and_assoc]

theorem kindActive_cbc_phase {d : Dir} {s : State} (ha : KindActive .cbc d s) :
    s.phase = .start ∨ s.phase = .chaining := by
  obtain ⟨-, -, h⟩ := ha
  cases d <;> cases hp : s.phase <;> simp [hp] at h ⊢

theorem kindActive_aead_phase {d : Dir} {s : State} (ha : KindActive .aead d s) :
    s.phase = .start ∨ s.phase = .chaining ∨ (s.phase = .final ∧ d = .enc) := by
  obtain ⟨-, -, -, -, h⟩ := ha
  cases d <;> cases hp : s.phase <;> simp [hp] at h ⊢

theorem active_of_kindActive {m : Mode} {d : Dir} {s : State} (h : KindActive m d s) : s.phase.active = true := by
  cases m with
  | ecb =>
    obtain ⟨hp, -⟩ := h
    simp [hp, Phase.active]
  | cbc => obtain hp | hp := kindActive_cbc_phase h <;> simp [hp, Phase.active]
  | ctr =>
    obtain ⟨hp, -⟩ := h
    simp [hp, Phase.active]
  | aead => obtain hp | hp | ⟨hp, -⟩ := kindActive_aead_phase h <;> simp [hp, Phase.active]

/-- A session goes on: nothing that `InSession` speaks of was written, and its kind's predicate holds. -/
theorem InSession.active {m : Mode} {d : Dir} {s t : State} (h : InSession m d s) (hk : KindActive m d t)
    (e : sessionFields t = sessionFields s := by simp [sessionFields, inputFields]) : StateInv t :=
  have ht := h.congr e
  stateInv_iff.2 ⟨ht.inputs,
    (sessionOk_of_active (active_of_kindActive hk)).2 ⟨ht.fault, ht.verify, m, d, ht.mode, ht.dir, hk⟩⟩

/-! ### The kinds' predicates across `SeqNext()` -/

@[simp] theorem noData_seqNext (s : State) : NoData (seqNext s).1 ↔ NoData s := by simp [NoData]

@[simp] theorem noAead_seqNext (s : State) : NoAead (seqNext s).1 ↔ NoAead s := by simp [NoAead]

@[simp] theorem fullElem_seqNext (s : State) (x : Elem) : FullElem (seqNext s).1 x ↔ FullElem s x := by
  simp [FullElem]

/-- A block is an element of the field (R69). -/
theorem fullElem_elemOfBlock {s : State} {b : Bytes} (hb : b.length = s.bsize) :
    FullElem s (elemOfBlock s.bsize b) :=
  ⟨rfl, by simpa [elemOfBlock, hb] using intOf_lt b⟩

@[simp] theorem counterOk_seqNext (s : State) : CounterOk (seqNext s).1 ↔ CounterOk s := by simp [CounterOk]

@[simp] theorem aeadShared_seqNext (s : State) : AeadShared (seqNext s).1 ↔ AeadShared s := by
  simp [AeadShared, AeadData, AeadConfig]

@[simp] theorem accOk_seqNext (s : State) : AccOk (seqNext s).1 ↔ AccOk s := by simp [AccOk]

theorem seqNext_seq_of_last {s : State} {c : Bytes} (h : (seqNext s).2 = .item c true) :
    (seqNext s).1.seq = .exhausted := by
  simpa [h] using seqNext_seq s

theorem itemsLeft_seqNext {s : State} {c : Bytes} (h : (seqNext s).2 = .item c false) : ItemsLeft (seqNext s).1 :=
  .inr (by simpa [h] using seqNext_seq s)

end Sys2Proof.Machine
end

section
/-!
PROOFS. Every `PULL` step keeps the invariant.
-/

namespace Sys2Proof.Machine

/-! ### ECB -/

theorem ecbEncFinal_keeps {k : Collab} {s t : State} {c : Bytes} (h : InSession .ecb .enc s) (hn : NoData s)
    (hq : s.seq = .exhausted) (e : ecbEncFinal k s c = .next t) : StateInv t := by
  obtain rfl | ⟨out, l, rfl⟩ := ecbEncFinal_next e
  · exact h.faulted _
  · exact h.ended (by decide) hq hn

theorem ecbEncStep_keeps {k : Collab} {s t : State} (h : InSession .ecb .enc s) (ha : KindActive .ecb .enc s)
    (e : ecbEncStep k s = .next t) : StateInv t := by
  obtain ⟨hp, hn, -⟩ := kindActive_ecb.1 ha
  obtain ⟨-, ⟨-, rfl⟩ | ⟨c, hi, e⟩ | ⟨c, hi, -, rfl⟩ | ⟨c, hi, -, rfl⟩⟩ := ecbEncStep_next e
  · exact h.seqNext.faulted _
  · exact ecbEncFinal_keeps h.seqNext (by simpa using hn) (seqNext_seq_of_last hi) e
  · exact h.seqNext.faulted _
  · have hq := itemsLeft_seqNext hi
    refine h.seqNext.active (Iff.mpr kindActive_ecb ?_)
    exact ⟨by simpa using hp, by simpa [NoData] using hn, by simpa [ItemsLeft] using hq⟩

theorem ecbDecStep_keeps {k : Collab} {s t : State} (h : InSession .ecb .dec s) (ha : KindActive .ecb .dec s)
    (e : ecbDecStep k s = .next t) : StateInv t := by
  obtain ⟨hp, hn, -⟩ := kindActive_ecb.1 ha
  obtain ⟨-, ⟨-, rfl⟩ | ⟨c, last, hi, -, rfl⟩ | ⟨c, p, hi, -, -, rfl⟩ | ⟨c, hi, -, rfl⟩⟩ := ecbDecStep_next e
  · exact h.seqNext.faulted _
  · exact h.seqNext.faulted _
  · exact h.seqNext.ended (by decide) (seqNext_seq_of_last hi) (by simpa [KindEnded, NoData] using hn)
  · have hq := itemsLeft_seqNext hi
    refine h.seqNext.active (Iff.mpr kindActive_ecb ?_)
    exact ⟨by simpa using hp, by simpa [NoData] using hn, by simpa [ItemsLeft] using hq⟩

/-! ### CBC -/

/-- When a CBC session ends, `CV` loses its value and with it the last data register (R135). -/
theorem kindEnded_cbc {s t : State} (hc : s.ctr = none) (hn : NoAead s) (hcv : t.cv = none)
    (e : (t.ctr, t.acc, t.h, t.ek, t.blkcnt, t.hlen) = (s.ctr, s.acc, s.h, s.ek, s.blkcnt, s.hlen) := by simp) :
    KindEnded .cbc t := by
  simp_all [KindEnded, NoData, NoAead]

theorem cbcEncFinal_keeps {k : Collab} {cv : Bytes} {s t : State} {c : Bytes} (h : InSession .cbc .enc s)
    (hc : s.ctr = none) (hn : NoAead s) (hq : s.seq = .exhausted) (e : cbcEncFinal k cv s c = .next t) : StateInv t := by
  obtain rfl | ⟨out, l, rfl⟩ := cbcEncFinal_next e
  · exact h.faulted _
  · exact h.ended (by decide) hq (kindEnded_cbc hc hn (by simp))

theorem cbcEncFirst_keeps {s t : State} (h : InSession .cbc .enc s) (hp : s.phase = .start)
    (ha : KindActive .cbc .enc s) (e : cbcEncFirst s = .next t) : StateInv t := by
  obtain ⟨hc, hn, hcv, hq⟩ := (kindActive_cbc_enc_start hp).1 ha
  obtain ⟨cv, -, rfl⟩ := cbcEncFirst_next e
  exact h.active (Iff.mpr (kindActive_cbc_chaining rfl) ⟨hc, hn, hcv, .inl hq⟩)

theorem cbcEncChain_keeps {k : Collab} {s t : State} (h : InSession .cbc .enc s) (hp : s.phase = .chaining)
    (ha : KindActive .cbc .enc s) (e : cbcEncChain k s = .next t) : StateInv t := by
  obtain ⟨hc, hn, -, -⟩ := (kindActive_cbc_chaining hp).1 ha
  obtain ⟨-, ⟨-, rfl⟩ | ⟨c, cv, hi, -, e⟩ | ⟨c, hi, -, rfl⟩ | ⟨c, cv, x, hi, -, -, -, rfl⟩⟩ := cbcEncChain_next e
  · exact h.seqNext.faulted _
  · exact cbcEncFinal_keeps h.seqNext (by simpa using hc) (by simpa using hn) (seqNext_seq_of_last hi) e
  · exact h.seqNext.faulted _
  · have hq := itemsLeft_seqNext hi
    refine h.seqNext.active (Iff.mpr (kindActive_cbc_chaining (by simpa using hp)) ?_)
    exact ⟨by simpa using hc, by simpa [NoAead] using hn, by simp [OneBlock], by simpa [ItemsLeft] using hq⟩

theorem cbcDecChain_keeps {k : Collab} {s t : State} (h : InSession .cbc .dec s) (hp : s.phase = .chaining)
    (ha : KindActive .cbc .dec s) (e : cbcDecChain k s = .next t) : StateInv t := by
  obtain ⟨hc, hn, -, -⟩ := (kindActive_cbc_chaining hp).1 ha
  obtain ⟨-, ⟨-, rfl⟩ | ⟨c, last, hi, -, rfl⟩ | ⟨c, cv, p, hi, -, -, -, rfl⟩ | ⟨c, cv, hi, hl, -, rfl⟩⟩ :=
    cbcDecChain_next e
  · exact h.seqNext.faulted _
  · exact h.seqNext.faulted _
  · exact h.seqNext.ended (by decide) (seqNext_seq_of_last hi) (kindEnded_cbc hc hn (by simp))
  · have hq := itemsLeft_seqNext hi
    refine h.seqNext.active (Iff.mpr (kindActive_cbc_chaining (by simpa using hp)) ?_)
    exact ⟨by simpa using hc, by simpa [NoAead] using hn, by simpa [OneBlock] using hl, by simpa [ItemsLeft] using hq⟩

/-- The IV is the chaining value with which the same `PULL` goes on (R134). -/
theorem kindActive_after_iv {s : State} {c : Bytes} (hp : s.phase = .start) (ha : KindActive .cbc .dec s)
    (hi : (seqNext s).2 = .item c false) (hl : c.length = s.bsize) :
    KindActive .cbc .dec (setPhase .chaining (setCv (some c) (seqNext s).1)) := by
  obtain ⟨hc, hn, -, -⟩ := (kindActive_cbc_dec_start hp).1 ha
  have hq := itemsLeft_seqNext hi
  refine Iff.mpr (kindActive_cbc_chaining rfl) ?_
  exact ⟨by simpa using hc, by simpa [NoAead] using hn, by simpa [OneBlock] using hl, by simpa [ItemsLeft] using hq⟩

theorem cbcDecFirst_keeps {k : Collab} {s t : State} (h : InSession .cbc .dec s) (hp : s.phase = .start)
    (ha : KindActive .cbc .dec s) (e : cbcDecFirst k s = .next t) : StateInv t := by
  obtain ⟨-, ⟨-, rfl⟩ | ⟨c, last, hi, -, rfl⟩ | ⟨c, hi, hl, e⟩⟩ := cbcDecFirst_next e
  · exact h.seqNext.faulted _
  · exact h.seqNext.faulted _
  · exact cbcDecChain_keeps h.seqNext.congr rfl (kindActive_after_iv hp ha hi hl) e

/-! ### CTR -/

/-- A counter below its bound may be raised by one (R23, R144). -/
theorem counterOk_succ {s t : State} {cw c : Nat} (h : CounterOk s) (hw : s.cw = some cw) (hc : c < 2 ^ (8 * cw))
    (ht : t.ctr = some (c + 1)) (e : (t.bsize, t.nonce, t.cw) = (s.bsize, s.nonce, s.cw) := by simp) : CounterOk t := by
  simp only [Prod.mk.injEq] at e
  obtain ⟨hb, hn, hw'⟩ := e
  obtain ⟨nonce, cw', -, hnonce, hcw, -, hl, -⟩ := h
  obtain rfl : cw = cw' := Option.some.inj (hw.symm.trans hcw)
  exact ⟨nonce, cw, c + 1, hn.trans hnonce, hw'.trans hw, ht, hb ▸ hl, hc⟩

theorem ctrStep_keeps {k : Collab} {d : Dir} {s t : State} (h : InSession .ctr d s) (ha : KindActive .ctr d s)
    (e : ctrStep k s = .next t) : StateInv t := by
  obtain ⟨hp, hcv, hn, hk, -⟩ := kindActive_ctr.1 ha
  obtain ⟨-, ⟨-, rfl⟩ | ⟨c, last, r, hi, -, -, rfl⟩ | ⟨c, last, r, hi, hr, hc, rfl⟩⟩ := ctrStep_next e
  · exact h.seqNext.faulted _
  · exact h.seqNext.faulted _
  · obtain ⟨-, hw, -⟩ := ctrRegs_eq_ok.1 hr
    cases last with
    | true =>
      exact h.seqNext.ended (by simp) (seqNext_seq_of_last hi)
        ⟨by simpa using hcv, by simpa [NoAead] using hn, r.ctr, by simp⟩
    | false =>
      have hq := itemsLeft_seqNext hi
      refine h.seqNext.active (Iff.mpr kindActive_ctr ?_)
      exact ⟨by simpa using hp, by simpa using hcv, by simpa [NoAead] using hn, counterOk_succ hk hw hc (by simp),
        by simpa [ItemsLeft] using hq⟩

/-! ### AEAD -/

/-- What the registers of an AEAD step are, where the invariant holds (R24 to R27, R166): the accumulator, the subkey
and the mask are elements of the field, and the two halves of the length element fit. -/
theorem aeadRegs_bounds {s : State} {r : AeadRegs} (hs : AeadShared s) (ha : AccOk s) (hr : aeadRegs s = .ok r) :
    FullElem s r.acc ∧ FullElem s r.h ∧ FullElem s r.ek ∧ r.hlen < 2 ^ (4 * s.bsize) ∧ r.blkcnt < 2 ^ (4 * s.bsize) := by
  obtain ⟨-, ⟨nonce, cw, c, hn, -, hc, hsum, hle⟩, ⟨⟨h, ek, hh, hek, fh, fek⟩, ⟨n, hctr, hbc⟩, hl, hhl, hlb⟩, -,
    nonce', hn', hhalf⟩ := hs
  obtain ⟨acc, hacc, facc⟩ := ha
  obtain ⟨-, -, -, ra, rh, re, rb, rl⟩ := aeadRegs_eq_ok.1 hr
  obtain rfl : r.acc = acc := Option.some.inj (ra.symm.trans hacc)
  obtain rfl : r.h = h := Option.some.inj (rh.symm.trans hh)
  obtain rfl : r.ek = ek := Option.some.inj (re.symm.trans hek)
  obtain rfl : r.blkcnt = n := Option.some.inj (rb.symm.trans hbc)
  obtain rfl : r.hlen = hl := Option.some.inj (rl.symm.trans hhl)
  obtain rfl : c = r.blkcnt + 1 := Option.some.inj (hc.symm.trans hctr)
  obtain rfl : nonce = nonce' := Option.some.inj (hn.symm.trans hn')
  have hcw : 8 * cw = 4 * s.bsize := by omega
  have hb : s.bsize < 2 ^ (4 * s.bsize) :=
    Nat.lt_two_pow_self.trans_le (Nat.pow_le_pow_right (by omega) (by omega))
  exact ⟨facc, fh, fek, by omega, hcw ▸ hle⟩

/-- The accumulator takes a block and stays an element of the field (R150). -/
theorem accumulate_block {s : State} {r : AeadRegs} {b : Bytes} (hs : AeadShared s) (ha : AccOk s)
    (hr : aeadRegs s = .ok r) (hb : b.length = s.bsize) :
    ∃ x, accumulate s.poly r.acc (elemOfBlock s.bsize b) r.h = .ok x ∧ FullElem s x := by
  obtain ⟨⟨an, av⟩, ⟨hn, -⟩, -⟩ := aeadRegs_bounds hs ha hr
  obtain ⟨-, -, -, ⟨p, hp⟩, -⟩ := hs
  obtain ⟨x, -, hx, hxn, hxv⟩ := accumulate_exists hp an av (fullElem_elemOfBlock hb).2 hn
  exact ⟨x, hx, hxn, hxv⟩

/-- The finalisation succeeds and its accumulator is an element of the field (R158, R166). -/
theorem finalise_of_inv {s : State} {r : AeadRegs} (hs : AeadShared s) (ha : AccOk s) (hr : aeadRegs s = .ok r) :
    ∃ x tag, finalise s.poly (8 * s.bsize) r = .ok (x, tag) ∧ FullElem s x := by
  obtain ⟨⟨an, av⟩, ⟨hn, -⟩, ⟨en, -⟩, hl, hb⟩ := aeadRegs_bounds hs ha hr
  obtain ⟨-, -, -, ⟨p, hp⟩, -⟩ := hs
  obtain ⟨x, -, hx, hxn, hxv⟩ := finalise_exists hp an av hn en hl hb
  exact ⟨x, _, hx, hxn, hxv⟩

/-- The fields that `AeadShared` speaks of. -/
def aeadFields (s : State) :=
  (s.bsize, s.nonce, s.cw, s.poly, s.cv, s.ctr, s.h, s.ek, s.blkcnt, s.hlen)

theorem AeadShared.congr {s t : State} (h : AeadShared s) (e : aeadFields t = aeadFields s := by simp [aeadFields]) :
    AeadShared t := by
  simp only [aeadFields, Prod.mk.injEq] at e
  obtain ⟨e0, e1, e2, e3, e4, e5, e6, e7, e8, e9⟩ := e
  simpa only [AeadShared, CounterOk, AeadData, AeadConfig, FullElem, e0, e1, e2, e3, e4, e5, e6, e7, e8, e9] using h

theorem accOk_of_acc {s t : State} {x : Elem} (fx : FullElem s x) (h : t.acc = some x := by simp)
    (hb : t.bsize = s.bsize := by simp) : AccOk t :=
  ⟨x, h, by simpa only [FullElem, hb] using fx⟩

/-- `CTR` and `BLKCNT` go on together (R26, R157, R161). -/
theorem aeadShared_next_block {s t : State} {r : AeadRegs} (hs : AeadShared s) (hr : aeadRegs s = .ok r)
    (hc : r.ctr < 2 ^ (8 * r.cw))
    (e : aeadFields t = aeadFields (setBlkcnt (r.blkcnt + 1) (setCtr (r.ctr + 1) s)) := by simp [aeadFields]) :
    AeadShared t := by
  obtain ⟨hcv, hk, ⟨hke, ⟨n, hctr, hbc⟩, hl⟩, hcfg⟩ := hs
  obtain ⟨-, rcw, rctr, -, -, -, rbc, -⟩ := aeadRegs_eq_ok.1 hr
  obtain rfl : r.blkcnt = n := Option.some.inj (rbc.symm.trans hbc)
  have hn : r.ctr = r.blkcnt + 1 := Option.some.inj (rctr.symm.trans hctr)
  have hk' : CounterOk (setBlkcnt (r.blkcnt + 1) (setCtr (r.ctr + 1) s)) := counterOk_succ hk rcw hc rfl
  exact AeadShared.congr (s := setBlkcnt (r.blkcnt + 1) (setCtr (r.ctr + 1) s))
    ⟨hcv, hk', ⟨hke, ⟨r.blkcnt + 1, by simp [hn], rfl⟩, hl⟩, hcfg⟩ e

/-- What an ended AEAD session holds (R174). -/
theorem kindEnded_aead {s : State} (hs : AeadShared s) (ha : AccOk s) : KindEnded .aead s := by
  obtain ⟨hcv, -, hd, -⟩ := hs
  exact ⟨hcv, hd, ha⟩

theorem aeadEncFirst_keeps {s t : State} (h : InSession .aead .enc s) (hp : s.phase = .start)
    (ha : KindActive .aead .enc s) (e : aeadEncFirst s = .next t) : StateInv t := by
  obtain ⟨hs, -, hacc, hq⟩ := (kindActive_aead_enc_start hp).1 ha
  obtain ⟨header, -, rfl⟩ := aeadEncFirst_next e
  exact h.active (Iff.mpr (kindActive_aead_chaining rfl) ⟨hs, hacc, .inl hq⟩)

theorem aeadEncData_keeps {k : Collab} {s t : State} (h : InSession .aead .enc s) (hp : s.phase = .chaining)
    (ha : KindActive .aead .enc s) (e : aeadEncData k s = .next t) : StateInv t := by
  obtain ⟨hs, hacc, -⟩ := (kindActive_aead_chaining hp).1 ha
  obtain ⟨-, ⟨-, rfl⟩ | ⟨c, last, hi, -, rfl⟩ | ⟨c, last, r, hi, -, hr, -, rfl⟩ |
    ⟨c, last, r, ct, hi, hl, hr, hc, hct, ⟨f, -, rfl⟩ | ⟨acc, hx, rfl⟩⟩⟩ := aeadEncData_next e
  · exact h.seqNext.faulted _
  · exact h.seqNext.faulted _
  · exact h.seqNext.faulted _
  · exact h.seqNext.faulted _
  · obtain ⟨x, hx', fx⟩ := accumulate_block hs hacc hr (b := ct) (by simp [hct, keystream, hl])
    obtain rfl : acc = x := Except.ok.inj (hx.symm.trans hx')
    cases last with
    | true =>
      have hq := seqNext_seq_of_last hi
      refine h.seqNext.active (Iff.mpr (kindActive_aead_enc_final (by simp)) ?_)
      exact ⟨aeadShared_next_block hs hr hc, accOk_of_acc fx, by simpa using hq⟩
    | false =>
      have hq := itemsLeft_seqNext hi
      refine h.seqNext.active (Iff.mpr (kindActive_aead_chaining (by simpa using hp)) ?_)
      exact ⟨aeadShared_next_block hs hr hc, accOk_of_acc fx, by simpa [ItemsLeft] using hq⟩

theorem aeadEncTag_keeps {s t : State} (h : InSession .aead .enc s) (hp : s.phase = .final)
    (ha : KindActive .aead .enc s) (e : aeadEncTag s = .next t) : StateInv t := by
  obtain ⟨hs, hacc, hq⟩ := (kindActive_aead_enc_final hp).1 ha
  obtain ⟨r, hr, ⟨f, -, rfl⟩ | ⟨acc, tag, hx, rfl⟩⟩ := aeadEncTag_next e
  · exact h.faulted _
  · obtain ⟨x, tag', hx', fx⟩ := finalise_of_inv hs hacc hr
    obtain ⟨rfl, -⟩ : acc = x ∧ tag = tag' := Prod.mk.inj (Except.ok.inj (hx.symm.trans hx'))
    exact h.ended (by decide) hq (kindEnded_aead hs.congr (accOk_of_acc fx))

theorem aeadDecData_keeps {k : Collab} {s t : State} {c : Bytes} (h : InSession .aead .dec s) (hp : s.phase = .chaining)
    (ha : KindActive .aead .dec s) (hl : c.length = s.bsize) (e : aeadDecData k s c = .next t) : StateInv t := by
  obtain ⟨hs, hacc, hq⟩ := (kindActive_aead_chaining hp).1 ha
  obtain ⟨r, hr, ⟨f, -, rfl⟩ | ⟨-, rfl⟩ | ⟨acc, hx, hc, rfl⟩⟩ := aeadDecData_next e
  · exact h.faulted _
  · exact h.faulted _
  · obtain ⟨x, hx', fx⟩ := accumulate_block hs hacc hr hl
    obtain rfl : acc = x := Except.ok.inj (hx.symm.trans hx')
    refine h.active (Iff.mpr (kindActive_aead_chaining (by simpa using hp)) ?_)
    exact ⟨aeadShared_next_block hs hr hc, accOk_of_acc fx, by simpa [ItemsLeft] using hq⟩

theorem aeadDecTag_keeps {s t : State} {c : Bytes} (h : InSession .aead .dec s) (hs : AeadShared s) (hacc : AccOk s)
    (hq : s.seq = .exhausted) (e : aeadDecTag s c = .next t) : StateInv t := by
  obtain ⟨r, hr, ⟨f, -, rfl⟩ | ⟨acc, tag, v, hx, rfl, rfl⟩⟩ := aeadDecTag_next e
  · exact h.faulted _
  · obtain ⟨x, tag', hx', fx⟩ := finalise_of_inv hs hacc hr
    obtain ⟨rfl, -⟩ : acc = x ∧ tag = tag' := Prod.mk.inj (Except.ok.inj (hx.symm.trans hx'))
    have h' : InSession .aead .dec (setAcc acc s) := h.congr
    exact (h'.verified rfl hq (kindEnded_aead hs.congr (accOk_of_acc fx))).respond _

theorem aeadDecChain_keeps {k : Collab} {s t : State} (h : InSession .aead .dec s) (hp : s.phase = .chaining)
    (ha : KindActive .aead .dec s) (e : aeadDecChain k s = .next t) : StateInv t := by
  obtain ⟨hs, hacc, -⟩ := (kindActive_aead_chaining hp).1 ha
  have hs' := (aeadShared_seqNext s).2 hs
  have hacc' := (accOk_seqNext s).2 hacc
  have hp' : (seqNext s).1.phase = .chaining := by simpa using hp
  obtain ⟨-, ⟨-, rfl⟩ | ⟨c, last, hi, -, rfl⟩ | ⟨c, hi, -, e⟩ | ⟨c, hi, hl, e⟩⟩ := aeadDecChain_next e
  · exact h.seqNext.faulted _
  · exact h.seqNext.faulted _
  · exact aeadDecTag_keeps h.seqNext hs' hacc' (seqNext_seq_of_last hi) e
  · have ha' := Iff.mpr (kindActive_aead_chaining (d := .dec) hp') ⟨hs', hacc', itemsLeft_seqNext hi⟩
    exact aeadDecData_keeps h.seqNext hp' ha' (by simpa using hl) e

/-- The header block seeds the accumulator with which the same `PULL` goes on (R160). -/
theorem kindActive_after_header {s : State} {c : Bytes} {hk acc : Elem} (hp : s.phase = .start)
    (ha : KindActive .aead .dec s) (hi : (seqNext s).2 = .item c false) (hl : c.length = s.bsize)
    (hx : feMultOp (elemOfBlock s.bsize c) hk s.poly = .ok acc) :
    KindActive .aead .dec (setPhase .chaining (setAcc acc (seqNext s).1)) := by
  obtain ⟨hs, -, -⟩ := (kindActive_aead_dec_start hp).1 ha
  have fx : FullElem s acc := feMultOp_fits (fullElem_elemOfBlock hl).2 hx
  have hq := itemsLeft_seqNext hi
  exact Iff.mpr (kindActive_aead_chaining rfl) ⟨hs.congr, accOk_of_acc fx, by simpa [ItemsLeft] using hq⟩

theorem aeadDecFirst_keeps {k : Collab} {s t : State} (h : InSession .aead .dec s) (hp : s.phase = .start)
    (ha : KindActive .aead .dec s) (e : aeadDecFirst k s = .next t) : StateInv t := by
  obtain ⟨-, ⟨-, rfl⟩ | ⟨c, hi, rfl⟩ | ⟨c, hi, -, rfl⟩ | ⟨c, hk, hi, hl, -, ⟨f, -, rfl⟩ | ⟨acc, hx, e⟩⟩⟩ :=
    aeadDecFirst_next e
  · exact h.seqNext.faulted _
  · exact h.seqNext.faulted _
  · exact h.seqNext.faulted _
  · exact h.seqNext.faulted _
  · exact aeadDecChain_keeps h.seqNext.congr rfl (kindActive_after_header hp ha hi hl hx) e

/-! ### `PULL` -/

/-- The session and what its kind holds, in a phase that is active. -/
theorem StateInv.inPhase {m : Mode} {d : Dir} {p : Phase} {s : State} (h : StateInv s) (hp : s.phase = p)
    (hm : s.mode = some m) (hd : s.dir = some d) (ha : p.active = true := by rfl) : InSession m d s ∧ KindActive m d s :=
  h.inSession (hp ▸ ha) hm hd

theorem pullWith_keeps {k : Collab} {s t : State} (h : StateInv s) (e : pullWith k s = .next t) : StateInv t := by
  cases pull_next e with
  | idle hp e => exact e ▸ h.respond _
  | done hp e => exact e ▸ h.respond _
  | flt x hp hx e => exact e ▸ h.respond _
  | ecbE hp hm hd e => exact (h.inPhase hp hm hd).elim (ecbEncStep_keeps · · e)
  | ecbD hp hm hd e => exact (h.inPhase hp hm hd).elim (ecbDecStep_keeps · · e)
  | cbcE0 hp hm hd e => exact (h.inPhase hp hm hd).elim (cbcEncFirst_keeps · hp · e)
  | cbcE hp hm hd e => exact (h.inPhase hp hm hd).elim (cbcEncChain_keeps · hp · e)
  | cbcD0 hp hm hd e => exact (h.inPhase hp hm hd).elim (cbcDecFirst_keeps · hp · e)
  | cbcD hp hm hd e => exact (h.inPhase hp hm hd).elim (cbcDecChain_keeps · hp · e)
  | ctr d hp hm hd e => exact (h.inPhase hp hm hd).elim (ctrStep_keeps · · e)
  | aeE0 hp hm hd e => exact (h.inPhase hp hm hd).elim (aeadEncFirst_keeps · hp · e)
  | aeE hp hm hd e => exact (h.inPhase hp hm hd).elim (aeadEncData_keeps · hp · e)
  | aeT hp hm hd e => exact (h.inPhase hp hm hd).elim (aeadEncTag_keeps · hp · e)
  | aeD0 hp hm hd e => exact (h.inPhase hp hm hd).elim (aeadDecFirst_keeps · hp · e)
  | aeD hp hm hd e => exact (h.inPhase hp hm hd).elim (aeadDecChain_keeps · hp · e)

end Sys2Proof.Machine
end

section
/-!
PROOFS. Every `START`, `ABANDON` and register command keeps the invariant, and with `PULL` so does every step.
-/

namespace Sys2Proof.Machine

/-! ### `START` and `ABANDON` -/

/-- Attaching the next source keeps the sources' type (R119). -/
theorem inputsOk_clearSession {s : State} (h : InputsOk s) : InputsOk (clearSession s) := by
  obtain ⟨hb, -, hss, -, hp, hc⟩ := h
  refine ⟨hb, ?_, fun src hm => hss src (List.mem_of_mem_tail hm), by simp, hp, hc⟩
  cases hs : s.sources with
  | nil => simp [sourceFits, hs]
  | cons src rest => simpa [sourceFits, hs] using hss src (by simp [hs])

theorem noData_clearSession (s : State) : NoData (clearSession s) := ⟨rfl, rfl, rfl, rfl, rfl, rfl, rfl⟩

theorem clearSession_keeps {s : State} (h : StateInv s) : StateInv (clearSession s) :=
  stateInv_iff.2 ⟨inputsOk_clearSession h.inputsOk,
    (sessionOk_of_idle rfl).2 ⟨rfl, rfl, rfl, rfl, noData_clearSession s⟩⟩

/-- A `START` begins a session of its mode and direction, whether it opens it or faults (R171). -/
theorem inSession_setKind {s : State} (h : InputsOk s) (m : Mode) (d : Dir) :
    InSession m d (setKind m d (clearSession s)) :=
  ⟨(inputsOk_clearSession h).congr rfl, rfl, rfl, rfl, rfl⟩

theorem startSession_keeps {m : Mode} {d : Dir} {rule : State → Except FaultClass State} {s : State} (h : StateInv s)
    (hr : ∀ u, rule (clearSession s) = .ok u → StateInv u) : StateInv (startSession m d rule s) := by
  obtain ⟨u, hu, e⟩ | ⟨f, -, e⟩ := startSession_cases m d rule s
  · exact e ▸ (hr u hu).respond _
  · exact e ▸ (inSession_setKind h.inputsOk m d).faulted f

/-- The state a `START` of ECB leaves in `CHAINING` (R121, R122). -/
theorem ecbStart_keeps {s : State} (h : InputsOk s) (d : Dir) :
    StateInv (setPhase .chaining (setKind .ecb d (clearSession s))) :=
  (inSession_setKind h .ecb d).active (Iff.mpr kindActive_ecb ⟨rfl, noData_clearSession s, .inl rfl⟩)

theorem cbcEncStart_keeps {s u : State} (h : InputsOk s) (e : cbcEncStart (clearSession s) = .ok u) : StateInv u := by
  obtain ⟨iv, -, hl, e'⟩ | e' := cbcEncStart_cases (clearSession s)
  · obtain rfl := Except.ok.inj (e.symm.trans e')
    exact (inSession_setKind h .cbc .enc).active
      (Iff.mpr (kindActive_cbc_enc_start rfl) ⟨rfl, ⟨rfl, rfl, rfl, rfl, rfl⟩, hl, rfl⟩)
  · cases e.symm.trans e'

theorem cbcDecStart_keeps {s : State} (h : InputsOk s) :
    StateInv (setPhase .start (setKind .cbc .dec (clearSession s))) :=
  (inSession_setKind h .cbc .dec).active
    (Iff.mpr (kindActive_cbc_dec_start rfl) ⟨rfl, ⟨rfl, rfl, rfl, rfl, rfl⟩, rfl, rfl⟩)

/-- The state a `START` of CTR leaves in `CHAINING`, where its checks pass (R141, R142). -/
theorem ctrStart_keeps {s : State} (h : InputsOk s) (d : Dir) (hc : ctrChecks (clearSession s) = .ok ()) :
    StateInv (setCtr 0 (setPhase .chaining (setKind .ctr d (clearSession s)))) := by
  obtain ⟨nonce, cw, hn, hw, hl, -⟩ | ⟨-, e⟩ := ctrChecks_cases (clearSession s)
  · exact (inSession_setKind h .ctr d).active
      (Iff.mpr kindActive_ctr
        ⟨rfl, rfl, ⟨rfl, rfl, rfl, rfl, rfl⟩, ⟨nonce, cw, 0, hn, hw, rfl, hl, Nat.zero_le _⟩, .inl rfl⟩)
  · cases hc.symm.trans e

/-- What both AEAD `START`s leave in the AEAD registers, where their checks pass (R151, R152). -/
theorem aeadShared_aeadSetup {k : Collab} {s : State} {nonce : Bytes} {cw hlen : Nat} {p : ExpSet} {d : Dir}
    (hp : selPoly (8 * s.bsize) s.poly = .ok p) (hn : s.nonce = some nonce) (hw : s.cw = some cw) (hcv : s.cv = none)
    (hsum : nonce.length + cw = s.bsize) (hhalf : 2 * nonce.length = s.bsize) (hl : hlen ≤ s.bsize) :
    AeadShared (aeadSetup k nonce cw hlen d s) := by
  have hblock : ∀ b : Bytes, FullElem s (elemOfBlock s.bsize (encryptBlock k s.bsize b)) := fun b =>
    fullElem_elemOfBlock (by simp)
  exact ⟨hcv, ⟨nonce, cw, 1, hn, hw, rfl, hsum, Nat.one_le_two_pow⟩,
    ⟨⟨_, _, rfl, rfl, hblock _, hblock _⟩, ⟨0, rfl, rfl⟩, hlen, rfl, hl⟩, ⟨p, hp⟩, nonce, hn, hhalf⟩

/-- An AEAD encrypt `START` that opens a session (R151). -/
theorem aeadEncStart_ok {k : Collab} {s u : State} (e : aeadEncStart k s = .ok u) :
    ∃ nonce cw header acc, aeadChecks s (s.header.map List.length) = .ok (nonce, cw, header.length) ∧
      s.header = some header ∧
      feMultOp (elemOfBlock s.bsize (headerBlock s.bsize header)) (hashSubkey k s.bsize) s.poly = .ok acc ∧
      u = setAcc acc (aeadSetup k nonce cw header.length .enc s) := by
  unfold aeadEncStart at e
  obtain ⟨nonce, cw, hlen, p, -, -, hh, -, -, -, -, hc⟩ | ⟨-, hc⟩ := aeadChecks_cases s (s.header.map List.length)
  · obtain ⟨header, hhd, rfl⟩ := Option.map_eq_some_iff.1 hh
    simp only [hhd, Option.map_some] at hc e ⊢
    cases hm : feMultOp (elemOfBlock s.bsize (headerBlock s.bsize header)) (hashSubkey k s.bsize) s.poly with
    | error f => simp [hm, hc, bind, Except.bind] at e
    | ok acc => exact ⟨nonce, cw, header, acc, hc, rfl, hm, by simpa [hm, hc, bind, Except.bind, eq_comm] using e⟩
  · simp [hc, bind, Except.bind] at e

/-- An AEAD decrypt `START` that opens a session (R152). -/
theorem aeadDecStart_ok {k : Collab} {s u : State} (e : aeadDecStart k s = .ok u) :
    ∃ nonce cw hlen, aeadChecks s s.hlenCfg = .ok (nonce, cw, hlen) ∧ u = aeadSetup k nonce cw hlen .dec s := by
  unfold aeadDecStart at e
  cases hc : aeadChecks s s.hlenCfg with
  | error f => simp [hc, bind, Except.bind] at e
  | ok x => exact ⟨x.1, x.2.1, x.2.2, rfl, by simpa [hc, bind, Except.bind, eq_comm] using e⟩

/-- What AEAD checks that pass have found (R151, R152). -/
theorem aeadShared_of_aeadChecks {k : Collab} {s : State} {hl : Option Nat} {nonce : Bytes} {cw hlen : Nat} {d : Dir}
    (hcv : s.cv = none) (h : aeadChecks s hl = .ok (nonce, cw, hlen)) :
    AeadShared (aeadSetup k nonce cw hlen d s) ∧ hlen ≤ s.bsize := by
  obtain ⟨nonce', cw', hlen', p, hn, hw, -, hp, hsum, hhalf, hle, h'⟩ | ⟨-, h'⟩ := aeadChecks_cases s hl
  · cases h.symm.trans h'
    exact ⟨aeadShared_aeadSetup hp hn hw hcv hsum hhalf hle, hle⟩
  · cases h.symm.trans h'

theorem aeadEncStart_keeps {k : Collab} {s u : State} (h : InputsOk s) (e : aeadEncStart k (clearSession s) = .ok u) :
    StateInv u := by
  obtain ⟨nonce, cw, header, acc, hc, hhd, hm, rfl⟩ := aeadEncStart_ok e
  obtain ⟨hs, hl⟩ := aeadShared_of_aeadChecks (k := k) (d := .enc) rfl hc
  have hblock := fullElem_elemOfBlock (s := clearSession s) (beBytes_length (intOf header) _)
  have hacc : FullElem (clearSession s) acc := feMultOp_fits hblock.2 hm
  exact (inSession_setKind h .aead .enc).active
    (Iff.mpr (kindActive_aead_enc_start rfl) ⟨hs.congr rfl, ⟨header, hhd, hl⟩, ⟨acc, rfl, hacc⟩, rfl⟩) rfl

theorem aeadDecStart_keeps {k : Collab} {s u : State} (h : InputsOk s) (e : aeadDecStart k (clearSession s) = .ok u) :
    StateInv u := by
  obtain ⟨nonce, cw, hlen, hc, rfl⟩ := aeadDecStart_ok e
  obtain ⟨hs, -⟩ := aeadShared_of_aeadChecks (k := k) (d := .dec) rfl hc
  exact (inSession_setKind h .aead .dec).active (Iff.mpr (kindActive_aead_dec_start rfl) ⟨hs, rfl, rfl⟩) rfl

/-- A CTR `START` that opens a session (R141, R142). -/
theorem ctrStartRule_ok {k : Collab} {d : Dir} {s u : State} (e : startRule k .ctr d s = .ok u) :
    ctrChecks s = .ok () ∧ u = setCtr 0 (setPhase .chaining (setKind .ctr d s)) := by
  cases hc : ctrChecks s with
  | error f => cases d <;> simp [startRule, ctrEncStart, ctrDecStart, hc, bind, Except.bind] at e
  | ok x =>
    refine ⟨rfl, ?_⟩
    cases d <;> simpa [startRule, ctrEncStart, ctrDecStart, hc, bind, Except.bind, eq_comm] using e

/-- Every `START` rule leaves a session that meets the invariant, where it leaves one. -/
theorem startRule_keeps {k : Collab} {m : Mode} {d : Dir} {s u : State} (h : InputsOk s)
    (e : startRule k m d (clearSession s) = .ok u) : StateInv u := by
  cases m with
  | ecb => cases d <;> exact Except.ok.inj e ▸ ecbStart_keeps h _
  | cbc =>
    cases d with
    | enc => exact cbcEncStart_keeps h e
    | dec => exact Except.ok.inj e ▸ cbcDecStart_keeps h
  | ctr =>
    obtain ⟨hc, rfl⟩ := ctrStartRule_ok e
    exact ctrStart_keeps h d hc
  | aead =>
    cases d with
    | enc => exact aeadEncStart_keeps h e
    | dec => exact aeadDecStart_keeps h e

theorem startWith_keeps {k : Collab} {m : Mode} {d : Dir} {s : State} (h : StateInv s) : StateInv (startWith k m d s) :=
  startSession_keeps h fun _ e => startRule_keeps h.inputsOk e

/-- A `START` command is `startWith` of its mode and direction, with the machine's collaborators. -/
theorem exec_of_startsSession {i : Instr} {m : Mode} {d : Dir} (h : startsSession i = some (m, d)) (s : State) :
    exec i s = .next (startWith Config.collab m d s) := by
  cases i <;> cases h <;> rfl

/-! ### The other commands -/

/-- The answer of a Field Engine command writes nothing else (R197). -/
theorem answerElem_eq (x : Except FaultClass Elem) (s : State) : ∃ r, answerElem x s = respond r s := by
  cases x with
  | ok e => exact ⟨_, rfl⟩
  | error f => exact ⟨_, rfl⟩

/-- What `SEQ.NEXT` leads to (R118). -/
theorem execSeqNext_next {s t : State} (h : execSeqNext s = .next t) :
    t = reject s ∨ (s.phase = .idle ∧ t = respond (seqNext s).2.response (seqNext s).1) := by
  unfold execSeqNext at h
  split at h
  · exact .inl (by cases h; rfl)
  · rename_i hp
    split at h
    · exact .inr ⟨not_not.1 hp, by cases h; rfl⟩
    · cases h

/-- What `REG.RD` leads to (R179). -/
theorem execRegRd_next {r : Reg} {s t : State} (h : execRegRd r s = .next t) : ∃ x, t = respond x s := by
  unfold execRegRd at h
  split at h
  · exact ⟨_, by cases h; rfl⟩
  · exact ⟨_, by cases h; rfl⟩

/-- A configuration write writes configuration registers alone, and a set into `POLY` (R35, R178). -/
theorem writeCfg_frame {r : Reg} {x : Value} {s t : State} (h : writeCfg s r x = some t) :
    ∃ nonce cw iv header hlen poly,
      t = { s with nonce := nonce, cw := cw, iv := iv, header := header, hlenCfg := hlen, poly := poly } ∧
      (x.wf = true → polyWf s.poly = true → polyWf poly = true) := by
  unfold writeCfg at h
  split at h
  case h_6 p => cases h; exact ⟨_, _, _, _, _, _, rfl, fun hx _ => hx⟩
  case h_7 => cases h
  all_goals cases h; exact ⟨_, _, _, _, _, _, rfl, fun _ hp => hp⟩

/-- What `CFG.WR` leads to (R178). -/
theorem execCfgWr_next {r : Reg} {x : Value} {s t : State} (h : execCfgWr r x s = .next t) :
    t = reject s ∨ (s.phase.active = false ∧ ∃ u, writeCfg s r x = some u ∧ t = respond .ok u) := by
  unfold execCfgWr at h
  split at h
  · exact .inl (by cases h; rfl)
  · rename_i ha
    split at h
    · exact .inl (by cases h; rfl)
    · split at h
      · exact .inr ⟨by simpa using ha, _, by assumption, by cases h; rfl⟩
      · cases h

/-- Outside an active session no register of the session depends on the configuration (R222). -/
theorem sessionOk_of_cfg {s : State} (h : SessionOk s) (ha : s.phase.active = false) (nonce : Option Bytes)
    (cw : Option Nat) (iv header : Option Bytes) (hlen : Option Nat) (poly : Option ExpSet) :
    SessionOk { s with nonce := nonce, cw := cw, iv := iv, header := header, hlenCfg := hlen, poly := poly } := by
  cases hp : s.phase with
  | idle => exact Iff.mpr (sessionOk_of_idle rfl) ((sessionOk_of_idle hp).1 h)
  | done => exact Iff.mpr (sessionOk_of_done rfl) ((sessionOk_of_done hp).1 h)
  | faulted => exact Iff.mpr (sessionOk_of_faulted rfl) ((sessionOk_of_faulted hp).1 h)
  | start => simp [hp, Phase.active] at ha
  | chaining => simp [hp, Phase.active] at ha
  | final => simp [hp, Phase.active] at ha

theorem execCfgWr_keeps {r : Reg} {x : Value} {s t : State} (h : StateInv s) (hx : x.wf = true)
    (e : execCfgWr r x s = .next t) : StateInv t := by
  obtain rfl | ⟨ha, u, hu, rfl⟩ := execCfgWr_next e
  · exact h.respond _
  · obtain ⟨nonce, cw, iv, header, hlen, poly, rfl, hp⟩ := writeCfg_frame hu
    obtain ⟨hb, hsrc, hss, hl, hpoly, hc⟩ := h.inputsOk
    refine StateInv.respond (stateInv_iff.2 ⟨?_, ?_⟩) _
    · exact ⟨hb, hsrc, hss, hl, hp hx hpoly, hc⟩
    · exact sessionOk_of_cfg h.session ha ..

theorem execSeqNext_keeps {s t : State} (h : StateInv s) (e : execSeqNext s = .next t) : StateInv t := by
  obtain rfl | ⟨hp, rfl⟩ := execSeqNext_next e
  · exact h.respond _
  · refine StateInv.respond (stateInv_iff.2 ⟨h.inputsOk.seqNext, (sessionOk_of_idle (by simpa using hp)).2 ?_⟩) _
    simpa using (sessionOk_of_idle hp).1 h.session

/-- Every well-formed instruction keeps the invariant. -/
theorem exec_keeps {i : Instr} {s t : State} (hi : i.wf = true) (h : StateInv s) (e : exec i s = .next t) :
    StateInv t := by
  cases hst : startsSession i with
  | some md =>
    obtain ⟨m, d⟩ := md
    rw [exec_of_startsSession hst] at e
    exact Host.Outcome.next.inj e ▸ startWith_keeps h
  | none =>
    cases i with
    | feNew n v | feXor a b | feMult a b p =>
      obtain ⟨r, hr⟩ := answerElem_eq _ s
      exact Host.Outcome.next.inj e ▸ hr ▸ h.respond r
    | feToint a => exact Host.Outcome.next.inj e ▸ h.respond _
    | seqNext => exact execSeqNext_keeps h e
    | pull => exact pullWith_keeps h e
    | abandon => exact Host.Outcome.next.inj e ▸ (clearSession_keeps h).respond _
    | cfgWr r x =>
      have hx : x.wf = true := by
        simp only [Instr.wf, Value.fits, Bool.and_eq_true] at hi
        exact hi.1
      exact execCfgWr_keeps h hx e
    | regRd r =>
      obtain ⟨x, rfl⟩ := execRegRd_next e
      exact h.respond x
    | startEcbEnc | startEcbDec | startCbcEnc | startCbcDec | startCtrEnc | startCtrDec | startAeadEnc | startAeadDec =>
      cases hst

/-! ### The step -/

/-- What the decoder accepts is well formed (R80). -/
theorem wf_of_decode {c : Command} {i : Instr} (h : decode c = .ok i) : i.wf = true := by
  unfold decode at h
  split at h
  · cases h
  · split at h
    · cases h
    · split at h
      · cases h; assumption
      · cases h

/-- What a command whose operands can be expressed leads to: its instruction, or `Rejected` (R82). -/
theorem runCommand_cases {c : Command} {s : State} (h : decode c ≠ .error .illTypedOperands) :
    (∃ i, decode c = .ok i ∧ runCommand c s = exec i s) ∨ runCommand c s = .next (reject s) := by
  unfold runCommand
  cases hd : decode c with
  | ok i => exact .inl ⟨i, rfl, rfl⟩
  | error x =>
    cases x with
    | illTypedOperands => exact absurd hd h
    | reservedOp | reservedMode | strayModeOrDir | strayReg | unknownRegister => exact .inr rfl

theorem step_of_none {s : State} (h : s.pending = []) : step s = .next s := by
  simp only [step, stepHost, h]

theorem step_of_pending {c : Command} {rest : List Command} {s : State} (h : s.pending = c :: rest) :
    step s = runCommand c { s with pending := rest } := by
  simp only [step, stepHost, h]

/-- Taking a command from the port keeps the invariant. -/
theorem stateInv_taken {c : Command} {rest : List Command} {s : State} (h : StateInv s) (hp : s.pending = c :: rest) :
    StateInv { s with pending := rest } ∧ decode c ≠ .error .illTypedOperands := by
  obtain ⟨hb, hsrc, hss, hl, hpoly, hc⟩ := h.inputsOk
  rw [hp] at hc
  exact ⟨stateInv_iff.2 ⟨⟨hb, hsrc, hss, hl, hpoly, fun d hd => hc d (.tail _ hd)⟩, h.session⟩, hc c (.head _)⟩

/-- Settles O52: a step takes a command, decodes it to a well-formed instruction and runs it, and each keeps the
invariant. -/
theorem everyStepKeepsTheInvariant : Obligations.EveryStepKeepsTheInvariant := by
  intro s t h e
  cases hp : s.pending with
  | nil => exact Host.Outcome.next.inj ((step_of_none hp).symm.trans e) ▸ h
  | cons c rest =>
    obtain ⟨h', hc⟩ := stateInv_taken h hp
    rw [step_of_pending hp] at e
    obtain ⟨i, hd, hr⟩ | hr := runCommand_cases (s := { s with pending := rest }) hc
    · exact exec_keeps (wf_of_decode hd) h' (hr ▸ e)
    · exact Host.Outcome.next.inj (hr.symm.trans e) ▸ h'.respond _

end Sys2Proof.Machine
end

section
/-!
PROOFS. No step is stuck where the invariant holds: every register a step reads holds a value, every session is in a phase
of its kind, and nothing is refused (spec/10_state.md R20, R29).
-/

namespace Sys2Proof.Machine

/-- The step goes on: neither stuck nor refused. -/
def Answers (r : Result) : Prop := ∃ t, r = .next t

theorem answers_next (t : State) : Answers (.next t) := ⟨t, rfl⟩

theorem answers_ite {p : Prop} [Decidable p] {a b : Result} (ha : p → Answers a) (hb : ¬ p → Answers b) :
    Answers (if p then a else b) := by
  split
  · exact ha ‹_›
  · exact hb ‹_›

/-- Where an item is left, `SeqNext()` does not give `End` (R112). -/
theorem seqNext_ne_finished {s : State} (h : ItemsLeft s) : (seqNext s).2 ≠ .finished := by
  intro hf
  have hq := seqNext_seq s
  simp only [hf] at hq
  obtain h | ⟨la, h⟩ := h <;> simp [h] at hq

theorem withItem_answers {s : State} {body : State → Bytes → Bool → Result} (hf : sourceFits s = true)
    (hq : ItemsLeft s) (hb : ∀ c last, (seqNext s).2 = .item c last → Answers (body (seqNext s).1 c last)) :
    Answers (withItem s body) := by
  unfold withItem
  rw [if_pos hf]
  cases hr : (seqNext s).2 with
  | item c last => exact hb c last hr
  | failed => exact answers_next _
  | finished => exact absurd hr (seqNext_ne_finished hq)

theorem withRegs_answers {α : Type} {x : Except Reg α} {body : α → Result} {a : α} (hx : x = .ok a)
    (hb : Answers (body a)) : Answers (withRegs x body) :=
  hx ▸ hb

theorem withValue_answers {α : Type} {x : Except FaultClass α} {s : State} {body : α → Result}
    (hb : ∀ a, Answers (body a)) : Answers (withValue x s body) := by
  cases x with
  | ok a => exact hb a
  | error f => exact answers_next _

/-! ### ECB and CBC -/

theorem ecbEncFinal_answers (k : Collab) (s : State) (c : Bytes) : Answers (ecbEncFinal k s c) :=
  answers_ite (fun _ => answers_next _) fun _ => answers_ite (fun _ => answers_next _) fun _ => answers_next _

theorem ecbPull_answers {k : Collab} {d : Dir} {s : State} (h : InputsOk s) (ha : KindActive .ecb d s) :
    Answers (ecbPull k d s) := by
  obtain ⟨hp, -, hq⟩ := kindActive_ecb.1 ha
  unfold ecbPull
  rw [if_neg (not_not.2 hp)]
  cases d with
  | enc =>
    exact withItem_answers h.source hq fun c last _ => answers_ite (fun _ => ecbEncFinal_answers ..) fun _ =>
      answers_ite (fun _ => answers_next _) fun _ => answers_next _
  | dec =>
    exact withItem_answers h.source hq fun c last _ => answers_ite (fun _ => answers_next _) fun _ =>
      answers_ite (fun _ => answers_next _) fun _ => answers_next _

theorem exists_of_oneBlock {s : State} {x : Option Bytes} (h : OneBlock s x) : ∃ b, x = some b := by
  cases x with
  | none => exact h.elim
  | some b => exact ⟨b, rfl⟩

theorem cbcEncFinal_answers (k : Collab) (cv : Bytes) (s : State) (c : Bytes) : Answers (cbcEncFinal k cv s c) :=
  answers_ite (fun _ => answers_next _) fun _ => answers_ite (fun _ => answers_next _) fun _ => answers_next _

theorem cbcEncChain_answers {k : Collab} {s : State} (h : InputsOk s) (hp : s.phase = .chaining)
    (ha : KindActive .cbc .enc s) : Answers (cbcEncChain k s) := by
  obtain ⟨-, -, hcv, hq⟩ := (kindActive_cbc_chaining hp).1 ha
  obtain ⟨cv, hcv⟩ := exists_of_oneBlock hcv
  refine withItem_answers h.source hq fun c last _ => withRegs_answers (a := cv) (by simp [hcv]) ?_
  exact answers_ite (fun _ => cbcEncFinal_answers ..) fun _ =>
    answers_ite (fun _ => answers_next _) fun _ => answers_next _

theorem cbcDecChain_answers {k : Collab} {s : State} (h : InputsOk s) (hp : s.phase = .chaining)
    (ha : KindActive .cbc .dec s) : Answers (cbcDecChain k s) := by
  obtain ⟨-, -, hcv, hq⟩ := (kindActive_cbc_chaining hp).1 ha
  obtain ⟨cv, hcv⟩ := exists_of_oneBlock hcv
  refine withItem_answers h.source hq fun c last _ => answers_ite (fun _ => answers_next _) fun _ => ?_
  exact withRegs_answers (a := cv) (by simp [hcv]) (answers_ite (fun _ => answers_next _) fun _ => answers_next _)

theorem cbcDecFirst_answers {k : Collab} {s : State} (h : InputsOk s) (hp : s.phase = .start)
    (ha : KindActive .cbc .dec s) : Answers (cbcDecFirst k s) := by
  obtain ⟨-, -, -, hq⟩ := (kindActive_cbc_dec_start hp).1 ha
  refine withItem_answers h.source (.inl hq) fun c last hi => answers_ite (fun _ => answers_next _) fun hl => ?_
  simp only [not_or, Bool.not_eq_true, not_not, seqNext_bsize] at hl
  obtain ⟨rfl, hl⟩ := hl
  exact cbcDecChain_answers (h.seqNext.congr rfl) rfl (kindActive_after_iv hp ha hi hl)

theorem cbcPull_answers {k : Collab} {d : Dir} {s : State} (h : InputsOk s) (ha : KindActive .cbc d s) :
    Answers (cbcPull k d s) := by
  unfold cbcPull
  obtain hp | hp := kindActive_cbc_phase ha
  · cases d with
    | enc =>
      obtain ⟨-, -, hcv, -⟩ := (kindActive_cbc_enc_start hp).1 ha
      obtain ⟨cv, hcv⟩ := exists_of_oneBlock hcv
      simp only [hp]
      exact withRegs_answers (a := cv) (by simp [hcv]) (answers_next _)
    | dec =>
      simp only [hp]
      exact cbcDecFirst_answers h hp ha
  · cases d with
    | enc =>
      simp only [hp]
      exact cbcEncChain_answers h hp ha
    | dec =>
      simp only [hp]
      exact cbcDecChain_answers h hp ha

/-! ### CTR and AEAD -/

theorem ctrPull_answers {k : Collab} {d : Dir} {s : State} (h : InputsOk s) (ha : KindActive .ctr d s) :
    Answers (ctrPull k s) := by
  obtain ⟨hp, -, -, ⟨nonce, cw, n, hn, hw, hn', -⟩, hq⟩ := kindActive_ctr.1 ha
  unfold ctrPull
  rw [if_neg (not_not.2 hp)]
  refine withItem_answers h.source hq fun c last _ => ?_
  exact withRegs_answers (a := ⟨nonce, cw, n⟩)
    (ctrRegs_eq_ok.2 ⟨by simpa using hn, by simpa using hw, by simpa using hn'⟩)
    (answers_ite (fun _ => answers_next _) fun _ => answers_next _)

/-- Every register an AEAD step reads holds a value (R20). -/
theorem aeadRegs_exists {s : State} (hs : AeadShared s) (ha : AccOk s) : ∃ r, aeadRegs s = .ok r := by
  obtain ⟨-, ⟨nonce, cw, c, hn, hw, -⟩, ⟨⟨h, ek, hh, hek, -⟩, ⟨n, hctr, hbc⟩, hl, hhl, -⟩, -⟩ := hs
  obtain ⟨acc, hacc, -⟩ := ha
  exact ⟨⟨nonce, cw, n + 1, acc, h, ek, n, hl⟩, aeadRegs_eq_ok.2 ⟨hn, hw, hctr, hacc, hh, hek, hbc, hhl⟩⟩

theorem aeadRegs_seqNext (s : State) : aeadRegs (seqNext s).1 = aeadRegs s := by simp [aeadRegs]

theorem aeadEncData_answers {k : Collab} {s : State} (h : InputsOk s) (hp : s.phase = .chaining)
    (ha : KindActive .aead .enc s) : Answers (aeadEncData k s) := by
  obtain ⟨hs, hacc, hq⟩ := (kindActive_aead_chaining hp).1 ha
  obtain ⟨r, hr⟩ := aeadRegs_exists hs hacc
  refine withItem_answers h.source hq fun c last _ => answers_ite (fun _ => answers_next _) fun _ => ?_
  refine withRegs_answers ((aeadRegs_seqNext s).trans hr) (answers_ite (fun _ => answers_next _) fun _ => ?_)
  exact withValue_answers fun acc => answers_next _

theorem aeadDecChain_answers {k : Collab} {s : State} (h : InputsOk s) (hp : s.phase = .chaining)
    (ha : KindActive .aead .dec s) : Answers (aeadDecChain k s) := by
  obtain ⟨hs, hacc, hq⟩ := (kindActive_aead_chaining hp).1 ha
  obtain ⟨r, hr⟩ := aeadRegs_exists hs hacc
  have hr' := (aeadRegs_seqNext s).trans hr
  refine withItem_answers h.source hq fun c last _ => answers_ite (fun _ => answers_next _) fun _ => answers_ite ?_ ?_
  · exact fun _ => withRegs_answers hr' (withValue_answers fun _ => answers_next _)
  · exact fun _ => withRegs_answers hr' (withValue_answers fun _ =>
      answers_ite (fun _ => answers_next _) fun _ => answers_next _)

theorem aeadDecFirst_answers {k : Collab} {s : State} (h : InputsOk s) (hp : s.phase = .start)
    (ha : KindActive .aead .dec s) : Answers (aeadDecFirst k s) := by
  obtain ⟨⟨-, -, ⟨⟨hk, ek, hh, -⟩, -⟩, -⟩, -, hq⟩ := (kindActive_aead_dec_start hp).1 ha
  refine withItem_answers h.source (.inl hq) fun c last hi => answers_ite (fun _ => answers_next _) fun hlast =>
    answers_ite (fun _ => answers_next _) fun hl => withRegs_answers (a := hk) (by simp [hh]) ?_
  rw [Bool.not_eq_true] at hlast
  rw [not_not, seqNext_bsize] at hl
  subst hlast
  rw [seqNext_bsize, seqNext_poly]
  cases hx : feMultOp (elemOfBlock s.bsize c) hk s.poly with
  | error f => exact answers_next _
  | ok acc => exact aeadDecChain_answers (h.seqNext.congr rfl) rfl (kindActive_after_header hp ha hi hl hx)

theorem aeadPull_answers {k : Collab} {d : Dir} {s : State} (h : InputsOk s) (ha : KindActive .aead d s) :
    Answers (aeadPull k d s) := by
  unfold aeadPull
  obtain hp | hp | ⟨hp, rfl⟩ := kindActive_aead_phase ha
  · cases d with
    | enc =>
      obtain ⟨-, ⟨header, hh, -⟩, -⟩ := (kindActive_aead_enc_start hp).1 ha
      simp only [hp]
      exact withRegs_answers (a := header) (by simp [hh]) (answers_next _)
    | dec =>
      simp only [hp]
      exact aeadDecFirst_answers h hp ha
  · cases d with
    | enc =>
      simp only [hp]
      exact aeadEncData_answers h hp ha
    | dec =>
      simp only [hp]
      exact aeadDecChain_answers h hp ha
  · obtain ⟨hs, hacc, -⟩ := (kindActive_aead_enc_final hp).1 ha
    obtain ⟨r, hr⟩ := aeadRegs_exists hs hacc
    simp only [hp]
    exact withRegs_answers hr (withValue_answers fun _ => answers_next _)

/-! ### `PULL` and the other commands -/

theorem sessionPull_answers {k : Collab} {s : State} (h : InputsOk s) (ha : ActiveSession s) :
    Answers (sessionPull k s) := by
  obtain ⟨m, d, hm, hd, hk⟩ := ha
  unfold sessionPull
  cases m with
  | ecb => simpa only [hm, hd] using ecbPull_answers h hk
  | cbc => simpa only [hm, hd] using cbcPull_answers h hk
  | ctr => simpa only [hm, hd] using ctrPull_answers (d := d) h hk
  | aead => simpa only [hm, hd] using aeadPull_answers h hk

theorem pullWith_answers {k : Collab} {s : State} (h : StateInv s) : Answers (pullWith k s) := by
  unfold pullWith
  cases hp : s.phase with
  | idle | done => exact answers_next _
  | faulted =>
    obtain ⟨hf, -⟩ := (sessionOk_of_faulted hp).1 h.session
    cases hx : s.fault with
    | none => exact absurd hx hf
    | some x => exact answers_next _
  | start | chaining | final =>
    obtain ⟨-, -, ha⟩ := (sessionOk_of_active (by simp [hp, Phase.active])).1 h.session
    exact sessionPull_answers h.inputsOk ha

/-- A configuration register takes every value of its kind (R178). -/
theorem writeCfg_exists {r : Reg} {x : Value} (s : State) (hr : isCfgReg r = true) (hk : x.kind = r.kind) :
    ∃ t, writeCfg s r x = some t := by
  cases r with
  | nonce | iv | header =>
    cases x with
    | bytes b => exact ⟨_, rfl⟩
    | int | poly | elem | bits1 | bits2 | bits3 => cases hk
  | cw | hlenCfg =>
    cases x with
    | int n => exact ⟨_, rfl⟩
    | bytes | poly | elem | bits1 | bits2 | bits3 => cases hk
  | poly =>
    cases x with
    | poly p => exact ⟨_, rfl⟩
    | int | bytes | elem | bits1 | bits2 | bits3 => cases hk
  | bsize | mode | dir | phase | fault | verify | cv | ctr | acc | h | ek | blkcnt | hlen | seqPhase | la => cases hr

theorem execCfgWr_answers {r : Reg} {x : Value} {s : State} (hx : x.fits r = true) : Answers (execCfgWr r x s) := by
  simp only [Value.fits, Bool.and_eq_true, decide_eq_true_eq] at hx
  refine answers_ite (fun _ => answers_next _) fun _ => answers_ite (fun _ => answers_next _) fun hr => ?_
  obtain ⟨t, ht⟩ := writeCfg_exists s ((Bool.not_eq_false _).mp hr) hx.2
  exact ⟨_, by rw [ht]⟩

theorem execSeqNext_answers {s : State} (h : StateInv s) : Answers (execSeqNext s) :=
  answers_ite (fun _ => answers_next _) fun _ => answers_ite (fun _ => answers_next _) fun hf => absurd h.source hf

theorem execRegRd_answers (r : Reg) (s : State) : Answers (execRegRd r s) := by
  unfold execRegRd
  split
  · exact answers_next _
  · exact answers_next _

/-- Every well-formed instruction answers, where the invariant holds. -/
theorem exec_answers {i : Instr} {s : State} (hi : i.wf = true) (h : StateInv s) : Answers (exec i s) := by
  cases i with
  | seqNext => exact execSeqNext_answers h
  | pull => exact pullWith_answers h
  | cfgWr r x => exact execCfgWr_answers hi
  | regRd r => exact execRegRd_answers r s
  | feNew | feToint | feXor | feMult | startEcbEnc | startEcbDec | startCbcEnc | startCbcDec | startCtrEnc | startCtrDec
  | startAeadEnc | startAeadDec | abandon => exact answers_next _

/-- Settles O53: the command a step takes decodes to a well-formed instruction, which answers, or is a reserved word, which
is rejected. -/
theorem noStepIsStuck : Obligations.NoStepIsStuck := by
  intro s h
  change Answers (step s)
  cases hp : s.pending with
  | nil => exact step_of_none hp ▸ answers_next s
  | cons c rest =>
    obtain ⟨h', hc⟩ := stateInv_taken h hp
    rw [step_of_pending hp]
    obtain ⟨i, hd, hr⟩ | hr := runCommand_cases (s := { s with pending := rest }) hc
    · exact hr ▸ exec_answers (wf_of_decode hd) h'
    · exact hr ▸ answers_next _

end Sys2Proof.Machine
end

section
/-!
PROOFS. How the commands move `PHASE` and `VERIFY` (spec/10_state.md R29, R31): what a `PULL` can do to a state, what
every `START` leaves, and what no other command writes.
-/

namespace Sys2Proof.Machine

/-! ### What a `PULL` can do -/

/-- What no step of a session writes before it answers, but for the tag step, which writes `VERIFY`. -/
def heldFields (s : State) :=
  (s.bsize, s.nonce, s.cw, s.iv, s.header, s.hlenCfg, s.poly, s.mode, s.dir, s.fault, s.verify, s.h, s.ek, s.hlen,
    s.sources, s.pending, s.responses)

theorem kind_of_held {s u : State} (h : heldFields u = heldFields s) : u.mode = s.mode ∧ u.dir = s.dir := by
  simp only [heldFields, Prod.mk.injEq] at h
  obtain ⟨-, -, -, -, -, -, -, hm, hd, -⟩ := h
  exact ⟨hm, hd⟩

theorem verify_of_held {s u : State} (h : heldFields u = heldFields s) :
    u.fault = s.fault ∧ u.verify = s.verify ∧ u.responses = s.responses := by
  simp only [heldFields, Prod.mk.injEq] at h
  obtain ⟨-, -, -, -, -, -, -, -, -, hf, hv, -, -, -, -, -, hr⟩ := h
  exact ⟨hf, hv, hr⟩

/-- The moves of `PHASE` by a step of a session that answers `Out` (R29). -/
inductive OutMove : Mode → Dir → Phase → Phase → Prop where
  | stays (m d) : OutMove m d .chaining .chaining
  | ends {m d} (h : ¬ (m = .aead ∧ d = .enc)) : OutMove m d .chaining .done
  | begins {m d} (h : m = .cbc ∨ m = .aead) : OutMove m d .start .chaining
  | endsAtOnce {m} (h : m = .cbc ∨ m = .aead) : OutMove m .dec .start .done
  | seals : OutMove .aead .enc .chaining .final
  | tags : OutMove .aead .enc .final .done

/-- What a `PULL` can do: answer without touching a register, fault, give an element of output, or give the outcome of the
comparison of tags. -/
inductive PullEffect (s t : State) : Prop where
  | answered (r) (h : s.phase.active = false) (e : t = respond r s)
  | faulted (x u) (h : s.phase.active = true) (hu : heldFields u = heldFields s) (e : t = enterFault x u)
  | moved (b u) {m d} (hm : s.mode = some m) (hd : s.dir = some d) (hu : heldFields u = heldFields s)
      (hp : OutMove m d s.phase u.phase) (e : t = respond (.out b) u)
  | verified (v u) (hm : s.mode = some .aead) (hd : s.dir = some .dec) (hp : s.phase = .start ∨ s.phase = .chaining)
      (hu : heldFields u = heldFields s) (hv : v.valid = true)
      (e : t = respond (.done (some v.ok)) (setPhase .done (setVerify v u)))

section
variable {k : Collab} {s t u : State} {m : Mode} {d : Dir}

theorem PullEffect.fault {x : FaultClass} {p : Phase} (hs : s.phase = p) (ha : p.active = true := by rfl)
    (hu : heldFields u = heldFields s := by simp [heldFields]) : PullEffect s (enterFault x u) :=
  .faulted x u (hs ▸ ha) hu rfl

theorem PullEffect.move {b : Bytes} {p q : Phase} (hm : s.mode = some m) (hd : s.dir = some d) (hs : s.phase = p)
    (h : OutMove m d p q) (hq : u.phase = q := by simp) (hu : heldFields u = heldFields s := by simp [heldFields]) :
    PullEffect s (respond (.out b) u) :=
  .moved b u hm hd hu (by rwa [hs, hq]) rfl

/-- The first item of a decrypt session is taken in `START`, and the same `PULL` goes on in `CHAINING` (R134, R160). -/
theorem PullEffect.of_chaining (hmm : m = .cbc ∨ m = .aead) (hm : s.mode = some m) (hd : s.dir = some .dec)
    (hs : s.phase = .start) (hp : u.phase = .chaining) (hu : heldFields u = heldFields s) (h : PullEffect u t) :
    PullEffect s t := by
  obtain ⟨em, ed⟩ := kind_of_held hu
  cases h with
  | answered r h e => simp [hp, Phase.active] at h
  | faulted x v h hv e => exact .faulted x v (by simp [hs, Phase.active]) (hv.trans hu) e
  | verified v w hm' hd' hp' hw hv e => exact .verified v w (em ▸ hm') hd (.inl hs) (hw.trans hu) hv e
  | moved b v hm' hd' hv hmove e =>
    obtain rfl := Option.some.inj (hm.symm.trans (em.symm.trans hm'))
    obtain rfl := Option.some.inj (hd.symm.trans (ed.symm.trans hd'))
    refine .moved b v hm hd (hv.trans hu) ?_ e
    rw [hp] at hmove
    generalize v.phase = q at hmove ⊢
    rw [hs]
    cases hmove with
    | stays => exact .begins hmm
    | ends => exact .endsAtOnce hmm

/-! #### The steps of each mode -/

theorem ecbEncStep_effect (hs : s.phase = .chaining) (hm : s.mode = some .ecb) (hd : s.dir = some .enc)
    (e : ecbEncStep k s = .next t) : PullEffect s t := by
  obtain ⟨-, ⟨-, rfl⟩ | ⟨c, -, e⟩ | ⟨c, -, -, rfl⟩ | ⟨c, -, -, rfl⟩⟩ := ecbEncStep_next e
  · exact .fault hs
  · obtain rfl | ⟨out, l, rfl⟩ := ecbEncFinal_next e
    · exact .fault hs
    · exact .move hm hd hs (.ends (by decide))
  · exact .fault hs
  · exact .move hm hd hs (.stays ..) (by simpa using hs)

theorem ecbDecStep_effect (hs : s.phase = .chaining) (hm : s.mode = some .ecb) (hd : s.dir = some .dec)
    (e : ecbDecStep k s = .next t) : PullEffect s t := by
  obtain ⟨-, ⟨-, rfl⟩ | ⟨c, last, -, -, rfl⟩ | ⟨c, p, -, -, -, rfl⟩ | ⟨c, -, -, rfl⟩⟩ := ecbDecStep_next e
  · exact .fault hs
  · exact .fault hs
  · exact .move hm hd hs (.ends (by decide))
  · exact .move hm hd hs (.stays ..) (by simpa using hs)

theorem cbcEncFirst_effect (hs : s.phase = .start) (hm : s.mode = some .cbc) (hd : s.dir = some .enc)
    (e : cbcEncFirst s = .next t) : PullEffect s t := by
  obtain ⟨cv, -, rfl⟩ := cbcEncFirst_next e
  exact .move hm hd hs (.begins (.inl rfl))

theorem cbcEncChain_effect (hs : s.phase = .chaining) (hm : s.mode = some .cbc) (hd : s.dir = some .enc)
    (e : cbcEncChain k s = .next t) : PullEffect s t := by
  obtain ⟨-, ⟨-, rfl⟩ | ⟨c, cv, -, -, e⟩ | ⟨c, -, -, rfl⟩ | ⟨c, cv, x, -, -, -, -, rfl⟩⟩ := cbcEncChain_next e
  · exact .fault hs
  · obtain rfl | ⟨out, l, rfl⟩ := cbcEncFinal_next e
    · exact .fault hs
    · exact .move hm hd hs (.ends (by decide))
  · exact .fault hs
  · exact .move hm hd hs (.stays ..) (by simpa using hs)

theorem cbcDecChain_effect (hs : s.phase = .chaining) (hm : s.mode = some .cbc) (hd : s.dir = some .dec)
    (e : cbcDecChain k s = .next t) : PullEffect s t := by
  obtain ⟨-, ⟨-, rfl⟩ | ⟨c, last, -, -, rfl⟩ | ⟨c, cv, p, -, -, -, -, rfl⟩ | ⟨c, cv, -, -, -, rfl⟩⟩ := cbcDecChain_next e
  · exact .fault hs
  · exact .fault hs
  · exact .move hm hd hs (.ends (by decide))
  · exact .move hm hd hs (.stays ..) (by simpa using hs)

theorem cbcDecFirst_effect (hs : s.phase = .start) (hm : s.mode = some .cbc) (hd : s.dir = some .dec)
    (e : cbcDecFirst k s = .next t) : PullEffect s t := by
  obtain ⟨-, ⟨-, rfl⟩ | ⟨c, last, -, -, rfl⟩ | ⟨c, -, -, e⟩⟩ := cbcDecFirst_next e
  · exact .fault hs
  · exact .fault hs
  · exact (cbcDecChain_effect rfl (by simpa using hm) (by simpa using hd) e).of_chaining (.inl rfl) hm hd hs rfl
      (by simp [heldFields])

theorem ctrStep_effect (hs : s.phase = .chaining) (hm : s.mode = some .ctr) (hd : s.dir = some d)
    (e : ctrStep k s = .next t) : PullEffect s t := by
  obtain ⟨-, ⟨-, rfl⟩ | ⟨c, last, r, -, -, -, rfl⟩ | ⟨c, last, r, -, -, -, rfl⟩⟩ := ctrStep_next e
  · exact .fault hs
  · exact .fault hs
  · cases last with
    | true => exact .move hm hd hs (.ends (by simp))
    | false => exact .move hm hd hs (.stays ..) (by simpa using hs)

theorem aeadEncFirst_effect (hs : s.phase = .start) (hm : s.mode = some .aead) (hd : s.dir = some .enc)
    (e : aeadEncFirst s = .next t) : PullEffect s t := by
  obtain ⟨header, -, rfl⟩ := aeadEncFirst_next e
  exact .move hm hd hs (.begins (.inr rfl))

theorem aeadEncData_effect (hs : s.phase = .chaining) (hm : s.mode = some .aead) (hd : s.dir = some .enc)
    (e : aeadEncData k s = .next t) : PullEffect s t := by
  obtain ⟨-, ⟨-, rfl⟩ | ⟨c, last, -, -, rfl⟩ | ⟨c, last, r, -, -, -, -, rfl⟩ |
    ⟨c, last, r, ct, -, -, -, -, -, ⟨f, -, rfl⟩ | ⟨acc, -, rfl⟩⟩⟩ := aeadEncData_next e
  · exact .fault hs
  · exact .fault hs
  · exact .fault hs
  · exact .fault hs
  · cases last with
    | true => exact .move hm hd hs .seals
    | false => exact .move hm hd hs (.stays ..) (by simpa using hs)

theorem aeadEncTag_effect (hs : s.phase = .final) (hm : s.mode = some .aead) (hd : s.dir = some .enc)
    (e : aeadEncTag s = .next t) : PullEffect s t := by
  obtain ⟨r, -, ⟨f, -, rfl⟩ | ⟨acc, tag, -, rfl⟩⟩ := aeadEncTag_next e
  · exact .fault hs
  · exact .move hm hd hs .tags

theorem aeadDecChain_effect (hs : s.phase = .chaining) (hm : s.mode = some .aead) (hd : s.dir = some .dec)
    (e : aeadDecChain k s = .next t) : PullEffect s t := by
  obtain ⟨-, ⟨-, rfl⟩ | ⟨c, last, -, -, rfl⟩ | ⟨c, -, -, e⟩ | ⟨c, -, -, e⟩⟩ := aeadDecChain_next e
  · exact .fault hs
  · exact .fault hs
  · obtain ⟨r, -, ⟨f, -, rfl⟩ | ⟨acc, tag, v, -, rfl, rfl⟩⟩ := aeadDecTag_next e
    · exact .fault hs
    · exact .verified _ _ hm hd (.inr hs) (by simp [heldFields]) rfl rfl
  · obtain ⟨r, -, ⟨f, -, rfl⟩ | ⟨-, rfl⟩ | ⟨acc, -, -, rfl⟩⟩ := aeadDecData_next e
    · exact .fault hs
    · exact .fault hs
    · exact .move hm hd hs (.stays ..) (by simpa using hs)

theorem aeadDecFirst_effect (hs : s.phase = .start) (hm : s.mode = some .aead) (hd : s.dir = some .dec)
    (e : aeadDecFirst k s = .next t) : PullEffect s t := by
  obtain ⟨-, ⟨-, rfl⟩ | ⟨c, -, rfl⟩ | ⟨c, -, -, rfl⟩ | ⟨c, hk, -, -, -, ⟨f, -, rfl⟩ | ⟨acc, -, e⟩⟩⟩ :=
    aeadDecFirst_next e
  · exact .fault hs
  · exact .fault hs
  · exact .fault hs
  · exact .fault hs
  · exact (aeadDecChain_effect rfl (by simpa using hm) (by simpa using hd) e).of_chaining (.inr rfl) hm hd hs rfl
      (by simp [heldFields])

theorem pullWith_effect (h : pullWith k s = .next t) : PullEffect s t := by
  cases pull_next h with
  | idle hp e => exact .answered _ (by simp [hp, Phase.active]) e
  | done hp e => exact .answered _ (by simp [hp, Phase.active]) e
  | flt x hp hx e => exact .answered _ (by simp [hp, Phase.active]) e
  | ecbE hp hm hd e => exact ecbEncStep_effect hp hm hd e
  | ecbD hp hm hd e => exact ecbDecStep_effect hp hm hd e
  | cbcE0 hp hm hd e => exact cbcEncFirst_effect hp hm hd e
  | cbcE hp hm hd e => exact cbcEncChain_effect hp hm hd e
  | cbcD0 hp hm hd e => exact cbcDecFirst_effect hp hm hd e
  | cbcD hp hm hd e => exact cbcDecChain_effect hp hm hd e
  | ctr d hp hm hd e => exact ctrStep_effect hp hm hd e
  | aeE0 hp hm hd e => exact aeadEncFirst_effect hp hm hd e
  | aeE hp hm hd e => exact aeadEncData_effect hp hm hd e
  | aeT hp hm hd e => exact aeadEncTag_effect hp hm hd e
  | aeD0 hp hm hd e => exact aeadDecFirst_effect hp hm hd e
  | aeD hp hm hd e => exact aeadDecChain_effect hp hm hd e

end

/-! ### What a `START` leaves -/

/-- The first phase of a session, by its mode (R29). -/
def firstPhase : Mode → Phase
  | .ecb | .ctr => .chaining
  | .cbc | .aead => .start

theorem startRule_ok {k : Collab} {m : Mode} {d : Dir} {s u : State} (e : startRule k m d s = .ok u) :
    u.phase = firstPhase m ∧ u.verify = s.verify := by
  cases m with
  | ecb => cases d <;> exact Except.ok.inj e ▸ ⟨rfl, rfl⟩
  | cbc =>
    cases d with
    | enc =>
      obtain ⟨iv, -, -, e'⟩ | e' := cbcEncStart_cases s
      · exact Except.ok.inj (e'.symm.trans e) ▸ ⟨rfl, rfl⟩
      · cases e'.symm.trans e
    | dec => exact Except.ok.inj e ▸ ⟨rfl, rfl⟩
  | ctr =>
    obtain ⟨-, rfl⟩ := ctrStartRule_ok e
    exact ⟨rfl, rfl⟩
  | aead =>
    cases d with
    | enc =>
      obtain ⟨nonce, cw, header, acc, -, -, -, rfl⟩ := aeadEncStart_ok e
      exact ⟨rfl, rfl⟩
    | dec =>
      obtain ⟨nonce, cw, hlen, -, rfl⟩ := aeadDecStart_ok e
      exact ⟨rfl, rfl⟩

/-- A `START` enters the first phase of its mode or faults, which ECB cannot, and clears `VERIFY` (R29, R31, R171). -/
theorem startWith_effect (k : Collab) (m : Mode) (d : Dir) (s : State) :
    ((startWith k m d s).phase = firstPhase m ∨ (m ≠ .ecb ∧ (startWith k m d s).phase = .faulted)) ∧
    (startWith k m d s).verify = Verify.clear := by
  obtain ⟨u, hu, e⟩ | ⟨f, hf, e⟩ := startSession_cases m d (startRule k m d) s
  · obtain ⟨hp, hv⟩ := startRule_ok hu
    exact ⟨.inl (by simpa [startWith, e] using hp), by simpa [startWith, e] using hv⟩
  · refine ⟨.inr ⟨?_, by simp [startWith, e]⟩, by simp [startWith, e, clearSession]⟩
    rintro rfl
    cases d <;> cases hf

/-! ### What the other commands leave -/

/-- The session registers (R22 to R31). -/
def sessionRegisters (s : State) :=
  (s.mode, s.dir, s.phase, s.fault, s.verify, s.cv, s.ctr, s.acc, s.h, s.ek, s.blkcnt, s.hlen)

/-- No command but `START`, `PULL` and `ABANDON` writes a session register. -/
theorem exec_keeps_sessionRegisters {i : Instr} {s t : State} (hi : startsSession i = none) (hp : i ≠ .pull)
    (ha : i ≠ .abandon) (e : exec i s = .next t) : sessionRegisters t = sessionRegisters s := by
  cases i with
  | feNew n v | feXor a b | feMult a b p =>
    obtain ⟨r, hr⟩ := answerElem_eq _ s
    exact Host.Outcome.next.inj e ▸ hr ▸ rfl
  | feToint a => exact Host.Outcome.next.inj e ▸ rfl
  | seqNext =>
    obtain rfl | ⟨-, rfl⟩ := execSeqNext_next e
    · rfl
    · simp [sessionRegisters]
  | cfgWr r x =>
    obtain rfl | ⟨-, u, hu, rfl⟩ := execCfgWr_next e
    · rfl
    · obtain ⟨nonce, cw, iv, header, hlen, poly, rfl, -⟩ := writeCfg_frame hu
      rfl
  | regRd r =>
    obtain ⟨x, rfl⟩ := execRegRd_next e
    rfl
  | pull => exact absurd rfl hp
  | abandon => exact absurd rfl ha
  | startEcbEnc | startEcbDec | startCbcEnc | startCbcDec | startCtrEnc | startCtrDec | startAeadEnc | startAeadDec =>
    cases hi

theorem phase_verify_of_sessionRegisters {s t : State} (h : sessionRegisters t = sessionRegisters s) :
    t.phase = s.phase ∧ t.verify = s.verify := by
  simp only [sessionRegisters, Prod.mk.injEq] at h
  obtain ⟨-, -, hp, -, hv, -⟩ := h
  exact ⟨hp, hv⟩

/-! ### The two statements -/

/-- Settles O45: by what a `START` leaves, what a `PULL` can do, and the registers that no other command writes. -/
theorem phaseMovesAsTheTableSays : Obligations.PhaseMovesAsTheTableSays := by
  intro i s t e
  have hstart : ∀ m d, startsSession i = some (m, d) →
      t.phase = firstPhase m ∨ (m ≠ .ecb ∧ t.phase = .faulted) := fun m d h => by
    rw [exec_of_startsSession h] at e
    exact Host.Outcome.next.inj e ▸ (startWith_effect Config.collab m d s).1
  split
  · exact Host.Outcome.next.inj e ▸ rfl
  · cases pullWith_effect e with
    | answered r h e => exact .inl (by simp [e])
    | faulted x u h hu e => exact .inr ⟨h, .inl (by simp [e])⟩
    | verified v u hm hd hp hu hv e =>
      obtain hp | hp := hp
      · simp [e, hp, hm, hd, Phase.active]
      · simp [e, hp, hm, hd, Phase.active]
    | moved b u hm hd hu hmove e =>
      subst e
      rw [respond_phase]
      generalize s.phase = p at *
      generalize u.phase = q at *
      cases hmove with
      | stays => exact .inl rfl
      | ends h => simp [hm, hd, h, Phase.active]
      | begins h => obtain rfl | rfl := h <;> simp [hm, Phase.active]
      | endsAtOnce h => obtain rfl | rfl := h <;> simp [hm, hd, Phase.active]
      | seals => simp [hm, hd, Phase.active]
      | tags => simp [hm, hd, Phase.active]
  · next ha hp =>
    split
    · next h => simpa [firstPhase] using hstart _ _ h
    · next h => simpa [firstPhase] using hstart _ _ h
    · next h => simpa [firstPhase] using hstart _ _ h
    · next h => simpa [firstPhase] using hstart _ _ h
    · next h => exact (phase_verify_of_sessionRegisters (exec_keeps_sessionRegisters h hp ha e)).1

/-- Settles O47: `START` and `ABANDON` clear `VERIFY`, the comparison of tags writes it, and nothing else does. -/
theorem verifyIsWrittenByTheTagStepAlone : Obligations.VerifyIsWrittenByTheTagStepAlone := by
  intro i s t e
  refine ⟨?_, fun hst ha => ?_⟩
  · rintro (hst | rfl)
    · obtain ⟨⟨m, d⟩, h⟩ := Option.ne_none_iff_exists'.1 hst
      rw [exec_of_startsSession h] at e
      exact Host.Outcome.next.inj e ▸ (startWith_effect Config.collab m d s).2
    · exact Host.Outcome.next.inj e ▸ rfl
  · by_cases hp : i = .pull
    · subst hp
      cases pullWith_effect e with
      | answered r h e => exact .inl (by simp [e])
      | faulted x u h hu e => exact .inl (by simp [e, verify_of_held hu])
      | moved b u hm hd hu hmove e => exact .inl (by simp [e, verify_of_held hu])
      | verified v u hm hd hp hu hv e =>
        exact .inr ⟨rfl, hm, hd, hp, by simp [e], by simp [e, verify_of_held hu], by simp [e, hv],
          by simp [e, verify_of_held hu]⟩
    · exact .inl (phase_verify_of_sessionRegisters (exec_keeps_sessionRegisters hst hp ha e)).2

end Sys2Proof.Machine
end

section
/-!
PROOFS. A step is the instruction that the oldest issued command decodes to (spec/20_memory.md R55, R58).
-/

namespace Sys2Proof.Machine

/-- A command that decodes is run as the instruction it decodes to (R58). -/
theorem runCommand_of_decode {c : Command} {i : Instr} (h : decode c = .ok i) (s : State) :
    runCommand c s = exec i s := by
  simp only [runCommand, h]

/-- Settles O5: a step takes the oldest command and runs what it decodes to; with no command issued it does nothing. -/
theorem stepRunsTheDecodedInstruction : Obligations.StepRunsTheDecodedInstruction := by
  refine ⟨fun s c rest i hp hd => ?_, fun s hp => step_of_none hp⟩
  calc step s
    _ = runCommand c { s with pending := rest } := step_of_pending hp
    _ = exec i { s with pending := rest } := runCommand_of_decode hd _

end Sys2Proof.Machine
end

section
/-!
PROOFS. The decoder and the encoder undo each other (spec/30_encoding.md R77 to R80), and the words the decoder refuses
are those of R82.
-/

namespace Sys2Proof.Machine

open Sys2Proof.Claims

/-! ### The fields of a word (R77) -/

/-- A word is made of its four fields and nothing else. -/
theorem makeWord_fields (w : CmdWord) : makeWord (opField w) (modeField w) (dirField w) (regField w) = w := by
  have hmo : modeField w ++ opField w = w.extractLsb' 0 7 := BitVec.extractLsb'_append_extractLsb'_eq_extractLsb' rfl
  have hrd : regField w ++ dirField w = w.extractLsb' 7 9 := BitVec.extractLsb'_append_extractLsb'_eq_extractLsb' rfl
  have hw : w.extractLsb' 7 9 ++ w.extractLsb' 0 7 = w.extractLsb' 0 16 :=
    BitVec.extractLsb'_append_extractLsb'_eq_extractLsb' rfl
  have hassoc := BitVec.append_assoc (x₁ := w.extractLsb' 7 9) (x₂ := modeField w) (x₃ := opField w)
  calc makeWord (opField w) (modeField w) (dirField w) (regField w)
    _ = w.extractLsb' 7 9 ++ modeField w ++ opField w := by rw [makeWord, hrd]
    _ = w.extractLsb' 0 16 := by rw [hassoc, hmo]; exact hw
    _ = w := BitVec.extractLsb'_eq_self

/-- R82's list, in the terms in which the decoder asks for it. -/
theorem reservedWord_iff_fields (w : CmdWord) :
    reservedWord w ↔
      opReserved (opField w) = true ∨
      (opField w = 0x6 ∧ 4 ≤ (modeField w).toNat) ∨ (opField w = 0x6 ∧ regField w ≠ 0) ∨
      (opField w ≠ 0x6 ∧ (modeField w ≠ 0 ∨ dirField w ≠ 0)) ∨
      (opField w ≠ 0x9 ∧ opField w ≠ 0xA ∧ regField w ≠ 0) ∨
      ((opField w = 0x9 ∨ opField w = 0xA) ∧ ¬ isRegNumber (regField w).toNat) := by
  have hop : (opField w).toNat = w.toNat % 16 := by simp [opField]
  have hmode : (modeField w).toNat = w.toNat / 16 % 8 := by simp [modeField, Nat.shiftRight_eq_div_pow]
  have hdir : (dirField w).toNat = w.toNat / 128 % 2 := by simp [dirField, Nat.shiftRight_eq_div_pow]
  have hreg : (regField w).toNat = w.toNat / 256 := by
    have : w.toNat / 256 < 256 := by omega
    simp [regField, Nat.shiftRight_eq_div_pow, Nat.mod_eq_of_lt this]
  simp [reservedWord, opReserved, ← BitVec.toNat_inj, hop, hmode, hdir, hreg, or_assoc]

/-! ### Register numbers (R41) -/

theorem number_of_ofNumber {k : BitVec 8} {r : Reg} (h : Reg.ofNumber k = some r) : r.number = k := by
  have all : ∀ k, ∀ r ∈ Reg.ofNumber k, r.number = k := by decide
  exact all k r h

theorem ofNumber_eq_none_iff (k : BitVec 8) : Reg.ofNumber k = none ↔ ¬ isRegNumber k.toNat := by
  unfold isRegNumber
  revert k
  decide

/-! ### From the word to its row, and back (R78, R79) -/

/-- The row of an instruction, with the register its word names. -/
def instrRow : Instr → Row
  | .feNew _ _ => .feNew
  | .feToint _ => .feToint
  | .feXor _ _ => .feXor
  | .feMult _ _ _ => .feMult
  | .seqNext => .seqNext
  | .startEcbEnc => .startEcbEnc
  | .startEcbDec => .startEcbDec
  | .startCbcEnc => .startCbcEnc
  | .startCbcDec => .startCbcDec
  | .startCtrEnc => .startCtrEnc
  | .startCtrDec => .startCtrDec
  | .startAeadEnc => .startAeadEnc
  | .startAeadDec => .startAeadDec
  | .pull => .pull
  | .abandon => .abandon
  | .cfgWr r _ => .cfgWr r
  | .regRd r => .regRd r

/-- The one word that selects a row. -/
def rowWord : Row → CmdWord
  | .feNew => makeWord 0x1 0 0 0
  | .feToint => makeWord 0x2 0 0 0
  | .feXor => makeWord 0x3 0 0 0
  | .feMult => makeWord 0x4 0 0 0
  | .seqNext => makeWord 0x5 0 0 0
  | .startEcbEnc => makeWord 0x6 0 0 0
  | .startEcbDec => makeWord 0x6 0 1 0
  | .startCbcEnc => makeWord 0x6 1 0 0
  | .startCbcDec => makeWord 0x6 1 1 0
  | .startCtrEnc => makeWord 0x6 2 0 0
  | .startCtrDec => makeWord 0x6 2 1 0
  | .startAeadEnc => makeWord 0x6 3 0 0
  | .startAeadDec => makeWord 0x6 3 1 0
  | .pull => makeWord 0x7 0 0 0
  | .abandon => makeWord 0x8 0 0 0
  | .cfgWr r => makeWord 0x9 0 0 r.number
  | .regRd r => makeWord 0xA 0 0 r.number

theorem encode_word (i : Instr) : (encode i).word = rowWord (instrRow i) := by
  cases i <;> rfl

theorem decodeWord_rowWord (row : Row) : decodeWord (rowWord row) = .ok row := by
  cases row with
  | cfgWr r | regRd r => cases r <;> rfl
  | _ => rfl

/-- What the decoder makes of the word `w`: a row whose word it is, or, exactly where the word is reserved, the name of what
is reserved about it. -/
def DecodesTo (reserved : Prop) (w : CmdWord) (x : Except DecodeError Row) : Prop :=
  (∀ row ∈ x.toOption, rowWord row = w ∧ ¬ reserved) ∧ (x.toOption = none → reserved) ∧ x ≠ .error .illTypedOperands

theorem decodesTo_ok {p : Prop} {w : CmdWord} {row : Row} : DecodesTo p w (.ok row) ↔ rowWord row = w ∧ ¬ p := by
  simp [DecodesTo, Except.toOption]

theorem decodesTo_error {p : Prop} {w : CmdWord} {e : DecodeError} :
    DecodesTo p w (.error e) ↔ p ∧ e ≠ .illTypedOperands := by
  simp [DecodesTo, Except.toOption]

theorem DecodesTo.congr {p q : Prop} {v w : CmdWord} {x : Except DecodeError Row} (h : DecodesTo p v x) (hpq : p ↔ q)
    (hw : v = w) : DecodesTo q w x := by
  rwa [← hpq, ← hw]

theorem decodeStart_decodesTo :
    ∀ mode dir, DecodesTo (4 ≤ mode.toNat) (makeWord 0x6 mode dir 0) (decodeStart mode dir) := by
  unfold DecodesTo
  decide

theorem decodePlain_decodesTo :
    ∀ op, DecodesTo (opReserved op = true ∨ op = 0x6 ∨ op = 0x9 ∨ op = 0xA) (makeWord op 0 0 0) (decodePlain op) := by
  unfold DecodesTo
  decide

theorem decodeRegister_decodesTo {op : BitVec 4} (hop : op = 0x9 ∨ op = 0xA) (reg : BitVec 8) :
    DecodesTo (¬ isRegNumber reg.toNat) (makeWord op 0 0 reg) (decodeRegister op reg) := by
  unfold decodeRegister
  rw [← ofNumber_eq_none_iff]
  cases hr : Reg.ofNumber reg with
  | none => simp [decodesTo_error]
  | some r =>
    rw [← number_of_ofNumber hr]
    obtain rfl | rfl := hop <;> simp [decodesTo_ok, rowWord]

/-- The decoder on words: it gives the row whose word it is, or the word is reserved (R78, R79, R82). -/
theorem decodeWord_decodesTo (w : CmdWord) : DecodesTo (reservedWord w) w (decodeWord w) := by
  have hw := makeWord_fields w
  rw [reservedWord_iff_fields]
  unfold decodeWord
  generalize opField w = op, modeField w = mode, dirField w = dir, regField w = reg at hw
  split_ifs with hres hstart hreg hmd hregister hreg
  · exact decodesTo_error.2 ⟨.inl hres, by decide⟩
  · exact decodesTo_error.2 ⟨by tauto, by decide⟩
  · obtain rfl := not_not.1 hreg
    subst hstart
    exact (decodeStart_decodesTo mode dir).congr (by simp [opReserved]) hw
  · exact decodesTo_error.2 ⟨by tauto, by decide⟩
  · obtain ⟨rfl, rfl⟩ : mode = 0 ∧ dir = 0 := by simpa using hmd
    exact (decodeRegister_decodesTo hregister reg).congr (by tauto) hw
  · exact decodesTo_error.2 ⟨by tauto, by decide⟩
  · obtain ⟨rfl, rfl⟩ : mode = 0 ∧ dir = 0 := by simpa using hmd
    obtain rfl := not_not.1 hreg
    exact (decodePlain_decodesTo op).congr (by tauto) hw

theorem decodeWord_eq_ok {w : CmdWord} {row : Row} (h : decodeWord w = .ok row) : rowWord row = w := by
  obtain ⟨hw, -⟩ := decodesTo_ok.1 (h ▸ decodeWord_decodesTo w)
  exact hw

/-! ### Operands (R80) -/

theorem attachOperands_encode (i : Instr) : attachOperands (instrRow i) (encode i).operands = some i := by
  cases i <;> rfl

theorem attachOperands_eq_some {row : Row} {ops : List Value} {i : Instr} (h : attachOperands row ops = some i) :
    instrRow i = row ∧ (encode i).operands = ops := by
  unfold attachOperands at h
  split at h <;> cases h <;> exact ⟨rfl, rfl⟩

/-! ### Commands -/

/-- A command decodes exactly when its word selects a row, its operands are that row's, and the instruction is well
formed. -/
theorem decode_eq_ok_iff {c : Command} {i : Instr} :
    decode c = .ok i ↔
      ∃ row, decodeWord c.word = .ok row ∧ attachOperands row c.operands = some i ∧ i.wf = true := by
  constructor
  · intro h
    unfold decode at h
    split at h
    · cases h
    · next row hw =>
      split at h
      · cases h
      · next j ho =>
        split at h
        · cases h
          exact ⟨row, hw, ho, ‹_›⟩
        · cases h
  · rintro ⟨row, hw, ho, hi⟩
    simp only [decode, hw, ho, hi, if_true]

/-- Settles O1: the encoded word selects the instruction's row, and the operands are that row's. -/
theorem encodeThenDecodeGivesTheInstruction : Obligations.EncodeThenDecodeGivesTheInstruction := by
  intro i hi
  refine decode_eq_ok_iff.2 ⟨instrRow i, ?_, attachOperands_encode i, hi⟩
  rw [encode_word, decodeWord_rowWord]

/-- Settles O2: a row has one word, and an instruction has one row and one list of operands. -/
theorem decodedCommandIsTheEncodingOfItsInstruction : Obligations.DecodedCommandIsTheEncodingOfItsInstruction := by
  intro c i h
  obtain ⟨row, hw, ho, hi⟩ := decode_eq_ok_iff.1 h
  obtain ⟨hrow, hops⟩ := attachOperands_eq_some ho
  have hword : (encode i).word = c.word := by rw [encode_word, hrow, decodeWord_eq_ok hw]
  refine ⟨hi, ?_⟩
  calc encode i
    _ = ⟨(encode i).word, (encode i).operands⟩ := rfl
    _ = c := by rw [hword, hops]

/-- Settles O3: each word is that of the instruction's encoding, which decodes. -/
theorem wordsWrittenFromTheSpecDecode : Obligations.WordsWrittenFromTheSpecDecode := by
  have h := encodeThenDecodeGivesTheInstruction
  exact ⟨h (.feNew 8 0x57) rfl, h (.feMult ⟨8, 2⟩ ⟨8, 3⟩ (some [8, 4, 3, 1, 0])) rfl, h .seqNext rfl, h .startCbcDec rfl,
    h .startAeadEnc rfl, h .pull rfl, h (.cfgWr .cw (.int 2)) rfl, h (.regRd .la) rfl⟩

/-! ### Reserved words (R82) -/

theorem decodeWord_error_iff (w : CmdWord) : (∃ e, decodeWord w = .error e) ↔ reservedWord w := by
  have h := decodeWord_decodesTo w
  cases hd : decodeWord w with
  | ok row =>
    obtain ⟨-, hr⟩ := decodesTo_ok.1 (hd ▸ h)
    simp [hr]
  | error e =>
    obtain ⟨hr, -⟩ := decodesTo_error.1 (hd ▸ h)
    simp [hr]

/-- A command with a reserved word is answered `Rejected`, whatever comes with the word. -/
theorem runCommand_of_reservedWord {c : Command} (h : reservedWord c.word) (s : State) :
    runCommand c s = .next (reject s) := by
  obtain ⟨e, hw⟩ := (decodeWord_error_iff c.word).2 h
  obtain ⟨-, he⟩ := decodesTo_error.1 (hw ▸ decodeWord_decodesTo c.word)
  have hd : decode c = .error e := by simp only [decode, hw]
  obtain ⟨i, hi, -⟩ | hr := runCommand_cases (c := c) (s := s) (by simpa [hd] using he)
  · simp [hd] at hi
  · exact hr

/-- Two rows of the opcode table whose patterns agree where both masks look are one row. -/
theorem opcodeTable_disjoint :
    ∀ a ∈ opcodeTable, ∀ b ∈ opcodeTable, a.pattern &&& b.mask = b.pattern &&& a.mask → a = b := by
  decide

theorem row_eq_of_matchesWord {w : CmdWord} {a b : TableRow} (ha : a ∈ opcodeTable) (hb : b ∈ opcodeTable)
    (hwa : a.matchesWord w = true) (hwb : b.matchesWord w = true) : a = b := by
  simp only [TableRow.matchesWord, decide_eq_true_eq] at hwa hwb
  refine opcodeTable_disjoint a ha b hb ?_
  calc a.pattern &&& b.mask
    _ = w &&& a.mask &&& b.mask := by rw [hwa]
    _ = w &&& b.mask &&& a.mask := by rw [BitVec.and_assoc, BitVec.and_comm a.mask, BitVec.and_assoc]
    _ = b.pattern &&& a.mask := by rw [hwb]

/-- Settles O4: what the decoder makes of every word, and the masks and patterns of the opcode table. -/
theorem reservedWordsAreExactlyThoseListed : Obligations.ReservedWordsAreExactlyThoseListed := by
  refine ⟨decodeWord_error_iff, fun w ops rest s hw hp => ?_, fun w a b ha hb => row_eq_of_matchesWord ha hb⟩
  rw [step_of_pending hp, runCommand_of_reservedWord hw]
  rfl

end Sys2Proof.Machine
end

section
/-!
PROOFS. What every command does on the `HOST` port (spec/30_encoding.md R81, spec/10_state.md R36): one response, and
neither the issued commands nor the block size written.
-/

namespace Sys2Proof.Machine

/-- One response was given, and the issued commands and `BSIZE` stayed. -/
def AnswersOnce (s t : State) : Prop :=
  (∃ r, t.responses = r :: s.responses) ∧ t.pending = s.pending ∧ t.bsize = s.bsize

/-- The fields that `AnswersOnce` speaks of. -/
def hostFields (s : State) := (s.responses, s.pending, s.bsize)

/-- A command that ends with a response, from a state with the same port and block size. -/
theorem answersOnce_respond {s u : State} (r : Response) (hu : hostFields u = hostFields s) :
    AnswersOnce s (respond r u) := by
  simp only [hostFields, Prod.mk.injEq] at hu
  obtain ⟨hr, hp, hb⟩ := hu
  exact ⟨⟨r, by rw [respond_responses, hr]⟩, hp, hb⟩

theorem answersOnce_enterFault {s u : State} (x : FaultClass) (hu : hostFields u = hostFields s) :
    AnswersOnce s (enterFault x u) :=
  answersOnce_respond (.fault x) hu

theorem hostFields_of_held {s u : State} (h : heldFields u = heldFields s) : hostFields u = hostFields s := by
  simp only [heldFields, Prod.mk.injEq] at h
  obtain ⟨hb, -, -, -, -, -, -, -, -, -, -, -, -, -, -, hp, hr⟩ := h
  simp only [hostFields, hb, hp, hr]

theorem pullWith_answersOnce {k : Collab} {s t : State} (e : pullWith k s = .next t) : AnswersOnce s t := by
  cases pullWith_effect e with
  | answered r h e => exact e ▸ answersOnce_respond r rfl
  | faulted x u h hu e => exact e ▸ answersOnce_enterFault x (hostFields_of_held hu)
  | moved b u hm hd hu hp e => exact e ▸ answersOnce_respond _ (hostFields_of_held hu)
  | verified v u hm hd hp hu hv e =>
    have hu' := hostFields_of_held hu
    exact e ▸ answersOnce_respond (u := setPhase .done (setVerify v u)) _ hu'

/-- A `START` rule that opens a session writes neither the ports nor the sequencer, nor `BSIZE` or `POLY`. -/
theorem startRule_frame {k : Collab} {m : Mode} {d : Dir} {s u : State} (e : startRule k m d s = .ok u) :
    inputFields u = inputFields s ∧ u.responses = s.responses := by
  cases m with
  | ecb => cases d <;> exact Except.ok.inj e ▸ ⟨rfl, rfl⟩
  | cbc =>
    cases d with
    | enc =>
      obtain ⟨iv, -, -, e'⟩ | e' := cbcEncStart_cases s
      · exact Except.ok.inj (e'.symm.trans e) ▸ ⟨rfl, rfl⟩
      · cases e'.symm.trans e
    | dec => exact Except.ok.inj e ▸ ⟨rfl, rfl⟩
  | ctr =>
    obtain ⟨-, rfl⟩ := ctrStartRule_ok e
    exact ⟨rfl, rfl⟩
  | aead =>
    cases d with
    | enc =>
      obtain ⟨nonce, cw, header, acc, -, -, -, rfl⟩ := aeadEncStart_ok e
      exact ⟨rfl, rfl⟩
    | dec =>
      obtain ⟨nonce, cw, hlen, -, rfl⟩ := aeadDecStart_ok e
      exact ⟨rfl, rfl⟩

theorem startWith_answersOnce (k : Collab) (m : Mode) (d : Dir) (s : State) : AnswersOnce s (startWith k m d s) := by
  obtain ⟨u, hu, e⟩ | ⟨f, -, e⟩ := startSession_cases m d (startRule k m d) s
  · obtain ⟨hi, hr⟩ := startRule_frame hu
    simp only [inputFields, Prod.mk.injEq] at hi
    obtain ⟨hb, -, -, -, -, hp⟩ := hi
    rw [startWith, e]
    exact answersOnce_respond _ (by simp [hostFields, hb, hp, hr])
  · rw [startWith, e]
    exact answersOnce_enterFault f rfl

/-- Settles O42: `START` and `PULL` by what they can do, and every other command by its one answer. -/
theorem everyCommandAnswersOnce : Obligations.EveryCommandAnswersOnce := by
  intro i s t e
  change AnswersOnce s t
  cases hst : startsSession i with
  | some md =>
    obtain ⟨m, d⟩ := md
    rw [exec_of_startsSession hst] at e
    exact Host.Outcome.next.inj e ▸ startWith_answersOnce Config.collab m d s
  | none =>
    cases i with
    | feNew n v | feXor a b | feMult a b p =>
      obtain ⟨r, hr⟩ := answerElem_eq _ s
      exact Host.Outcome.next.inj e ▸ hr ▸ answersOnce_respond r rfl
    | feToint a => exact Host.Outcome.next.inj e ▸ answersOnce_respond _ rfl
    | seqNext =>
      obtain rfl | ⟨-, rfl⟩ := execSeqNext_next e
      · exact answersOnce_respond _ rfl
      · exact answersOnce_respond _ (by simp [hostFields])
    | pull => exact pullWith_answersOnce e
    | abandon => exact Host.Outcome.next.inj e ▸ answersOnce_respond _ rfl
    | cfgWr r x =>
      obtain rfl | ⟨-, u, hu, rfl⟩ := execCfgWr_next e
      · exact answersOnce_respond _ rfl
      · obtain ⟨nonce, cw, iv, header, hlen, poly, rfl, -⟩ := writeCfg_frame hu
        exact answersOnce_respond _ rfl
    | regRd r =>
      obtain ⟨x, rfl⟩ := execRegRd_next e
      exact answersOnce_respond x rfl
    | startEcbEnc | startEcbDec | startCbcEnc | startCbcDec | startCtrEnc | startCtrDec | startAeadEnc | startAeadDec =>
      cases hst

end Sys2Proof.Machine
end

section
/-!
PROOFS. A session over a source of `k` chunks ends within `k + 3` `PULL`s (spec/70_reset_and_hazards.md R225), so every
whole-stream run has a result (spec/30_encoding.md R85).
-/

namespace Sys2Proof.Machine

/-! ### How many items are left -/

/-- The chunks that the attached source has still to give. -/
def chunksLeft (s : State) : Nat := (attachedSource s).chunks.length

/-- How many items `SeqNext()` has still to give, the empty item of an empty source not counted (R112). -/
def itemsToCome (s : State) : Nat :=
  match s.seq with
  | .unprimed => chunksLeft s
  | .primed _ => chunksLeft s + 1
  | .exhausted | .failed => 0

theorem itemsToCome_of_unprimed {s : State} (h : s.seq = .unprimed) : itemsToCome s = chunksLeft s := by
  simp [itemsToCome, h]

theorem itemsToCome_of_primed {s : State} {la : Bytes} (h : s.seq = .primed la) : itemsToCome s = chunksLeft s + 1 := by
  simp [itemsToCome, h]

theorem itemsToCome_le (s : State) : itemsToCome s ≤ chunksLeft s + 1 := by
  cases h : s.seq <;> simp [itemsToCome, h]

/-- A chunk is taken from the source (R111). -/
theorem chunks_sourceNext {src : Source} {c : Bytes} (h : (sourceNext src).1 = .chunk c) :
    (sourceNext src).2.chunks.length + 1 = src.chunks.length := by
  obtain ⟨chunks, ending⟩ := src
  cases chunks with
  | nil => cases ending <;> cases h
  | cons d rest => rfl

theorem chunksLeft_afterSrcNext {s : State} {c : Bytes} (h : srcAnswer s = .chunk c) :
    chunksLeft (afterSrcNext s) + 1 = chunksLeft s :=
  chunks_sourceNext h

theorem seqNextPrimed_items {la c : Bytes} {s : State} (h : (seqNextPrimed la s).2 = .item c false) :
    itemsToCome (seqNextPrimed la s).1 = chunksLeft s := by
  cases ha : srcAnswer s with
  | chunk d =>
    simp only [seqNextPrimed, ha]
    rw [itemsToCome_of_primed rfl, ← chunksLeft_afterSrcNext ha]
    rfl
  | eof | failure => simp [seqNextPrimed, ha, isLastOf] at h

/-- An item that is not the last leaves fewer items (R112). -/
theorem itemsToCome_seqNext_lt {s : State} {c : Bytes} (h : (seqNext s).2 = .item c false) :
    itemsToCome (seqNext s).1 < itemsToCome s := by
  cases hq : s.seq with
  | unprimed =>
    rw [itemsToCome_of_unprimed hq]
    cases ha : srcAnswer s with
    | chunk d =>
      have e : seqNext s = seqNextPrimed d (setSeq (.primed d) (afterSrcNext s)) := by simp [seqNext, hq, ha]
      have hs : chunksLeft (setSeq (.primed d) (afterSrcNext s)) + 1 = chunksLeft s := chunksLeft_afterSrcNext ha
      rw [e] at h ⊢
      rw [seqNextPrimed_items h]
      omega
    | eof | failure => simp [seqNext, hq, ha, isLastOf] at h
  | primed la =>
    have e : seqNext s = seqNextPrimed la s := by simp [seqNext, hq]
    rw [e] at h ⊢
    rw [itemsToCome_of_primed hq, seqNextPrimed_items h]
    omega
  | exhausted | failed => simp [seqNext, hq] at h

/-- Only an empty source gives an item that was not counted: the empty one (D10). -/
theorem itemsToCome_pos {s : State} {c : Bytes} {last : Bool} (h : (seqNext s).2 = .item c last) (hc : c ≠ []) :
    0 < itemsToCome s := by
  cases hq : s.seq with
  | unprimed =>
    rw [itemsToCome_of_unprimed hq]
    cases ha : srcAnswer s with
    | chunk d =>
      have := chunksLeft_afterSrcNext ha
      omega
    | eof =>
      obtain ⟨rfl, -⟩ : [] = c ∧ _ := by simpa [seqNext, hq, ha] using h
      exact absurd rfl hc
    | failure => simp [seqNext, hq, ha] at h
  | primed la => simp [itemsToCome, hq]
  | exhausted | failed => simp [seqNext, hq] at h

/-! ### What the steps use up -/

/-- The fields that `itemsToCome` speaks of. -/
def sourceFields (s : State) := (s.bsize, s.src, s.drawn, s.seq)

theorem itemsToCome_congr {s t : State} (e : sourceFields t = sourceFields s) : itemsToCome t = itemsToCome s := by
  simp only [sourceFields, Prod.mk.injEq] at e
  obtain ⟨hb, hsrc, hd, hq⟩ := e
  simp only [itemsToCome, chunksLeft, attachedSource, hb, hsrc, hd, hq]

section
variable {k : Collab} {s t : State}

/-- A step that takes an item which is not the last, and does not touch the source any further. -/
theorem uses_item {c : Bytes} (hi : (seqNext s).2 = .item c false)
    (e : sourceFields t = sourceFields (seqNext s).1 := by simp [sourceFields]) : itemsToCome t < itemsToCome s :=
  itemsToCome_congr e ▸ itemsToCome_seqNext_lt hi

theorem ecbEncStep_uses (e : ecbEncStep k s = .next t) (ht : t.phase = .chaining) : itemsToCome t < itemsToCome s := by
  obtain ⟨-, ⟨-, rfl⟩ | ⟨c, -, e⟩ | ⟨c, -, -, rfl⟩ | ⟨c, hi, -, rfl⟩⟩ := ecbEncStep_next e
  · cases ht
  · obtain rfl | ⟨out, l, rfl⟩ := ecbEncFinal_next e <;> cases ht
  · cases ht
  · exact uses_item hi

theorem ecbDecStep_uses (e : ecbDecStep k s = .next t) (ht : t.phase = .chaining) : itemsToCome t < itemsToCome s := by
  obtain ⟨-, ⟨-, rfl⟩ | ⟨c, last, -, -, rfl⟩ | ⟨c, p, -, -, -, rfl⟩ | ⟨c, hi, -, rfl⟩⟩ := ecbDecStep_next e
  · cases ht
  · cases ht
  · cases ht
  · exact uses_item hi

theorem cbcEncChain_uses (e : cbcEncChain k s = .next t) (ht : t.phase = .chaining) : itemsToCome t < itemsToCome s := by
  obtain ⟨-, ⟨-, rfl⟩ | ⟨c, cv, -, -, e⟩ | ⟨c, -, -, rfl⟩ | ⟨c, cv, x, hi, -, -, -, rfl⟩⟩ := cbcEncChain_next e
  · cases ht
  · obtain rfl | ⟨out, l, rfl⟩ := cbcEncFinal_next e <;> cases ht
  · cases ht
  · exact uses_item hi

theorem cbcDecChain_uses (e : cbcDecChain k s = .next t) (ht : t.phase = .chaining) : itemsToCome t < itemsToCome s := by
  obtain ⟨-, ⟨-, rfl⟩ | ⟨c, last, -, -, rfl⟩ | ⟨c, cv, p, -, -, -, -, rfl⟩ | ⟨c, cv, hi, -, -, rfl⟩⟩ := cbcDecChain_next e
  · cases ht
  · cases ht
  · cases ht
  · exact uses_item hi

theorem cbcDecFirst_uses (e : cbcDecFirst k s = .next t) (ht : t.phase = .chaining) : itemsToCome t < itemsToCome s := by
  obtain ⟨-, ⟨-, rfl⟩ | ⟨c, last, -, -, rfl⟩ | ⟨c, hi, -, e⟩⟩ := cbcDecFirst_next e
  · cases ht
  · cases ht
  · exact (cbcDecChain_uses e ht).trans (uses_item hi)

theorem ctrStep_uses (e : ctrStep k s = .next t) (ht : t.phase = .chaining) : itemsToCome t < itemsToCome s := by
  obtain ⟨-, ⟨-, rfl⟩ | ⟨c, last, r, -, -, -, rfl⟩ | ⟨c, last, r, hi, -, -, rfl⟩⟩ := ctrStep_next e
  · cases ht
  · cases ht
  · cases last with
    | true => cases ht
    | false => exact uses_item hi

theorem aeadEncData_uses (e : aeadEncData k s = .next t) (ht : t.phase = .chaining) : itemsToCome t < itemsToCome s := by
  obtain ⟨-, ⟨-, rfl⟩ | ⟨c, last, -, -, rfl⟩ | ⟨c, last, r, -, -, -, -, rfl⟩ |
    ⟨c, last, r, ct, hi, -, -, -, -, ⟨f, -, rfl⟩ | ⟨acc, -, rfl⟩⟩⟩ := aeadEncData_next e
  · cases ht
  · cases ht
  · cases ht
  · cases ht
  · cases last with
    | true => cases ht
    | false => exact uses_item hi

theorem aeadDecChain_uses (e : aeadDecChain k s = .next t) (ht : t.phase = .chaining) : itemsToCome t < itemsToCome s := by
  obtain ⟨-, ⟨-, rfl⟩ | ⟨c, last, -, -, rfl⟩ | ⟨c, -, -, e⟩ | ⟨c, hi, -, e⟩⟩ := aeadDecChain_next e
  · cases ht
  · cases ht
  · obtain ⟨r, -, ⟨f, -, rfl⟩ | ⟨acc, tag, v, -, rfl, rfl⟩⟩ := aeadDecTag_next e <;> cases ht
  · obtain ⟨r, -, ⟨f, -, rfl⟩ | ⟨-, rfl⟩ | ⟨acc, -, -, rfl⟩⟩ := aeadDecData_next e
    · cases ht
    · cases ht
    · exact uses_item hi

theorem aeadDecFirst_uses (e : aeadDecFirst k s = .next t) (ht : t.phase = .chaining) : itemsToCome t < itemsToCome s := by
  obtain ⟨-, ⟨-, rfl⟩ | ⟨c, -, rfl⟩ | ⟨c, -, -, rfl⟩ | ⟨c, hk, hi, -, -, ⟨f, -, rfl⟩ | ⟨acc, -, e⟩⟩⟩ :=
    aeadDecFirst_next e
  · cases ht
  · cases ht
  · cases ht
  · cases ht
  · exact (aeadDecChain_uses e ht).trans (uses_item hi)

/-- The data step that seals the stream took a block, which is not empty and so was counted (R157). -/
theorem aeadEncData_seals (hb : 0 < s.bsize) (e : aeadEncData k s = .next t) (ht : t.phase = .final) :
    0 < itemsToCome s := by
  obtain ⟨-, ⟨-, rfl⟩ | ⟨c, last, -, -, rfl⟩ | ⟨c, last, r, -, -, -, -, rfl⟩ |
    ⟨c, last, r, ct, hi, hl, -⟩⟩ := aeadEncData_next e
  · cases ht
  · cases ht
  · cases ht
  · exact itemsToCome_pos hi (List.ne_nil_of_length_pos (hl ▸ hb))

/-! ### How many `PULL`s are left -/

/-- A bound on the `PULL`s that a session takes from here to its `Done` or `Fault`, that answer included: one for each item,
for what comes in front of them (the IV or the header), for the tag block and for the answer. -/
def pullsLeft (s : State) : Nat :=
  match s.phase with
  | .start => itemsToCome s + 3
  | .chaining => itemsToCome s + 2
  | .final => 2
  | .idle | .done | .faulted => 1

theorem pullsLeft_of_start (h : s.phase = .start) : pullsLeft s = itemsToCome s + 3 := by
  simp [pullsLeft, h]

theorem pullsLeft_of_chaining (h : s.phase = .chaining) : pullsLeft s = itemsToCome s + 2 := by
  simp [pullsLeft, h]

theorem pullsLeft_of_final (h : s.phase = .final) : pullsLeft s = 2 := by
  simp [pullsLeft, h]

theorem pullsLeft_of_inactive (h : s.phase.active = false) : pullsLeft s = 1 := by
  unfold pullsLeft
  cases hp : s.phase <;> simp_all [Phase.active]

theorem pullsLeft_of_active (h : s.phase.active = true) : 2 ≤ pullsLeft s := by
  unfold pullsLeft
  cases hp : s.phase <;> simp_all [Phase.active]

theorem pullsLeft_pos (s : State) : 0 < pullsLeft s := by
  cases ha : s.phase.active with
  | true => exact Nat.lt_of_succ_lt (pullsLeft_of_active ha)
  | false => exact pullsLeft_of_inactive ha ▸ Nat.one_pos

/-- A `PULL` that leaves the session in `CHAINING` has taken an item, or is the first one (D33). -/
theorem pullsLeft_lt_of_chaining (e : pullWith k s = .next t) (ht : t.phase = .chaining) : pullsLeft t < pullsLeft s := by
  have begins (hp : s.phase = .start) (h : itemsToCome t ≤ itemsToCome s) : pullsLeft t < pullsLeft s := by
    rw [pullsLeft_of_chaining ht, pullsLeft_of_start hp]
    omega
  have goesOn (hp : s.phase = .chaining) (h : itemsToCome t < itemsToCome s) : pullsLeft t < pullsLeft s := by
    rw [pullsLeft_of_chaining ht, pullsLeft_of_chaining hp]
    omega
  cases pull_next e with
  | idle hp e | done hp e | flt x hp hx e =>
    subst e
    cases ht.symm.trans hp
  | ecbE hp hm hd e => exact goesOn hp (ecbEncStep_uses e ht)
  | ecbD hp hm hd e => exact goesOn hp (ecbDecStep_uses e ht)
  | cbcE0 hp hm hd e =>
    obtain ⟨cv, -, rfl⟩ := cbcEncFirst_next e
    exact begins hp (itemsToCome_congr rfl).le
  | cbcE hp hm hd e => exact goesOn hp (cbcEncChain_uses e ht)
  | cbcD0 hp hm hd e => exact begins hp (cbcDecFirst_uses e ht).le
  | cbcD hp hm hd e => exact goesOn hp (cbcDecChain_uses e ht)
  | ctr d hp hm hd e => exact goesOn hp (ctrStep_uses e ht)
  | aeE0 hp hm hd e =>
    obtain ⟨header, -, rfl⟩ := aeadEncFirst_next e
    exact begins hp (itemsToCome_congr rfl).le
  | aeE hp hm hd e => exact goesOn hp (aeadEncData_uses e ht)
  | aeT hp hm hd e =>
    obtain ⟨r, -, ⟨f, -, rfl⟩ | ⟨acc, tag, -, rfl⟩⟩ := aeadEncTag_next e <;> cases ht
  | aeD0 hp hm hd e => exact begins hp (aeadDecFirst_uses e ht).le
  | aeD hp hm hd e => exact goesOn hp (aeadDecChain_uses e ht)

/-- In `CHAINING` a `PULL` of an AEAD encrypt session is the data step (R172). -/
theorem pullWith_aead_enc_chaining (hm : s.mode = some .aead) (hd : s.dir = some .enc) (hp : s.phase = .chaining) :
    pullWith k s = aeadEncData k s := by
  simp only [pullWith, sessionPull, aeadPull, hm, hd, hp]

end

/-! ### A session ends -/

/-- The session has ended, and the last response says how (R85). -/
def Ended (t : State) : Prop :=
  (∃ r rest x, t.responses = r :: rest ∧ r.streamEnd = some x) ∧ (t.phase = .done ∨ t.phase = .faulted)

/-- The two outcomes of a `PULL`: the session's end, or an element of output after which fewer `PULL`s are left. -/
inductive Progress (s t : State) : Prop where
  | ended (h : Ended t)
  | out (b rest) (e : t.responses = .out b :: rest) (hp : t.phase ≠ .idle) (hlt : pullsLeft t < pullsLeft s)

/-- After its end a session answers its outcome again (R172). -/
theorem ended_of_inactive {k : Collab} {s t : State} (hi : s.phase ≠ .idle) (ha : s.phase.active = false)
    (e : pullWith k s = .next t) : Ended t := by
  unfold pullWith at e
  split at e
  · next hp => exact absurd hp hi
  · next hp =>
    cases e
    exact ⟨⟨_, _, _, rfl, rfl⟩, .inl hp⟩
  · next hp =>
    split at e
    · cases e
      exact ⟨⟨_, _, _, rfl, rfl⟩, .inr hp⟩
    · cases e
  all_goals
    next hp => simp [hp, Phase.active] at ha

/-- Where a move of `PHASE` that answers `Out` starts and where it leads (R29). -/
theorem OutMove.target {m : Mode} {d : Dir} {p q : Phase} (h : OutMove m d p q) :
    p.active = true ∧ (q = .chaining ∨ q = .done ∨ (m = .aead ∧ d = .enc ∧ p = .chaining ∧ q = .final)) := by
  cases h <;> simp [Phase.active]

/-- A `PULL` that answers `Out` brings the session's end nearer. -/
theorem pullsLeft_lt_of_outMove {k : Collab} {s t : State} {m : Mode} {d : Dir} (hb : 0 < s.bsize)
    (hm : s.mode = some m) (hd : s.dir = some d) (h : OutMove m d s.phase t.phase) (e : pullWith k s = .next t) :
    t.phase ≠ .idle ∧ pullsLeft t < pullsLeft s := by
  obtain ⟨ha, hq | hq | ⟨rfl, rfl, hp, hq⟩⟩ := h.target
  · exact ⟨by simp [hq], pullsLeft_lt_of_chaining e hq⟩
  · refine ⟨by simp [hq], ?_⟩
    have := pullsLeft_of_active ha
    rw [pullsLeft_of_inactive (by simp [hq, Phase.active])]
    omega
  · refine ⟨by simp [hq], ?_⟩
    rw [pullWith_aead_enc_chaining hm hd hp] at e
    have := aeadEncData_seals hb e hq
    rw [pullsLeft_of_final hq, pullsLeft_of_chaining hp]
    omega

theorem pullWith_progress {k : Collab} {s t : State} (hb : 0 < s.bsize) (hi : s.phase ≠ .idle)
    (e : pullWith k s = .next t) : Progress s t := by
  cases pullWith_effect e with
  | answered r ha e' => exact .ended (ended_of_inactive hi ha e)
  | faulted x u ha hu e' =>
    subst e'
    exact .ended ⟨⟨.fault x, _, _, rfl, rfl⟩, .inr rfl⟩
  | verified v u hm hd hp hu hv e' =>
    subst e'
    exact .ended ⟨⟨.done _, _, _, rfl, rfl⟩, .inl rfl⟩
  | moved b u hm hd hu hmove e' =>
    subst e'
    obtain ⟨hp, hlt⟩ := pullsLeft_lt_of_outMove (t := respond (.out b) u) hb hm hd hmove e
    exact .out b _ rfl hp hlt

theorem pullUntilEnd_of_ended {k : Collab} {s t : State} (fuel : Nat) (e : pullWith k s = .next t) (h : Ended t) :
    pullUntilEnd k (fuel + 1) s = .next t := by
  obtain ⟨⟨r, rest, x, hr, hx⟩, -⟩ := h
  simp only [pullUntilEnd, e, hr, List.head?_cons]
  cases r with
  | out b => cases hx
  | _ => rfl

theorem pullUntilEnd_of_out {k : Collab} {s t : State} {b : Bytes} {rest : List Response} (fuel : Nat)
    (e : pullWith k s = .next t) (h : t.responses = .out b :: rest) :
    pullUntilEnd k (fuel + 1) s = pullUntilEnd k fuel t := by
  simp only [pullUntilEnd, e, h, List.head?_cons]

/-- Enough `PULL`s bring a session to its end: each one is the last, or leaves fewer. -/
theorem pullUntilEnd_ends {k : Collab} {fuel : Nat} {s : State} (h : StateInv s) (hi : s.phase ≠ .idle)
    (hf : pullsLeft s ≤ fuel) : ∃ t, pullUntilEnd k fuel s = .next t ∧ Ended t := by
  induction fuel generalizing s with
  | zero =>
    have := pullsLeft_pos s
    omega
  | succ fuel ih =>
    obtain ⟨t, e⟩ := pullWith_answers (k := k) h
    cases pullWith_progress h.block hi e with
    | ended ht => exact ⟨t, pullUntilEnd_of_ended fuel e ht, ht⟩
    | out b rest hr hp hlt =>
      rw [pullUntilEnd_of_out fuel e hr]
      exact ih (pullWith_keeps h e) hp (by omega)

/-! ### The two statements -/

/-- In `START` no item has been asked for (D33). -/
theorem unprimed_of_start {s : State} (h : StateInv s) (hp : s.phase = .start) : s.seq = .unprimed := by
  obtain ⟨-, -, m, d, hm, hd, -⟩ := (sessionOk_of_active (by simp [hp, Phase.active])).1 h.session
  obtain ⟨-, hk⟩ := h.inPhase hp hm hd
  cases m with
  | ecb | ctr =>
    obtain ⟨hp', -⟩ := hk
    cases hp.symm.trans hp'
  | cbc =>
    cases d with
    | enc =>
      obtain ⟨-, -, -, hq⟩ := (kindActive_cbc_enc_start hp).1 hk
      exact hq
    | dec =>
      obtain ⟨-, -, -, hq⟩ := (kindActive_cbc_dec_start hp).1 hk
      exact hq
  | aead =>
    cases d with
    | enc =>
      obtain ⟨-, -, -, hq⟩ := (kindActive_aead_enc_start hp).1 hk
      exact hq
    | dec =>
      obtain ⟨-, -, hq⟩ := (kindActive_aead_dec_start hp).1 hk
      exact hq

theorem pullsLeft_le {s : State} (h : StateInv s) : pullsLeft s ≤ pullBound (chunksLeft s) := by
  have hle := itemsToCome_le s
  cases hp : s.phase with
  | start => rw [pullsLeft_of_start hp, itemsToCome_of_unprimed (unprimed_of_start h hp), pullBound]
  | chaining =>
    rw [pullsLeft_of_chaining hp, pullBound]
    omega
  | final | idle | done | faulted => simp [pullsLeft, hp, pullBound]

/-- The next source that was lined up is the attached one after a `START` (R119). -/
theorem startWith_src (k : Collab) (m : Mode) (d : Dir) (s : State) : (startWith k m d s).src = s.sources.head? := by
  obtain ⟨u, hu, e⟩ | ⟨f, -, e⟩ := startSession_cases m d (startRule k m d) s
  · obtain ⟨hi, -⟩ := startRule_frame hu
    simp only [inputFields, Prod.mk.injEq] at hi
    obtain ⟨-, hsrc, -⟩ := hi
    rw [startWith, e, respond_src, hsrc, clearSession_src]
  · rw [startWith, e]
    rfl

theorem startWith_phase_ne_idle (k : Collab) (m : Mode) (d : Dir) (s : State) : (startWith k m d s).phase ≠ .idle := by
  obtain ⟨hp | ⟨-, hp⟩, -⟩ := startWith_effect k m d s
  · cases m <;> simp [hp, firstPhase]
  · simp [hp]

theorem chunksLeft_startWith {k : Collab} {m : Mode} {d : Dir} {s : State} {src : Source} (h : s.sources = [src]) :
    chunksLeft (startWith k m d s) = src.chunks.length := by
  simp [chunksLeft, attachedSource, startWith_src, h]

/-- A session, opened or refused by its `START`, ends within the bound of the source lined up for it. -/
theorem pullUntilEnd_startWith (k : Collab) (m : Mode) (d : Dir) {s : State} {src : Source} (h : StateInv s)
    (hs : s.sources = [src]) :
    ∃ t, pullUntilEnd k (pullBound src.chunks.length) (startWith k m d s) = .next t ∧ Ended t := by
  have h' : StateInv (startWith k m d s) := startWith_keeps h
  exact pullUntilEnd_ends h' (startWith_phase_ne_idle k m d s) (chunksLeft_startWith hs ▸ pullsLeft_le h')

/-- Lining up a source of the right type and forgetting the transcript keep the invariant. -/
theorem stateInv_linedUp {s : State} {src : Source} (h : StateInv s) (hs : fitsBlock s.bsize src = true) :
    StateInv { s with sources := [src], responses := [] } := by
  obtain ⟨hb, hsrc, -, hl, hp, hc⟩ := h.inputsOk
  exact stateInv_iff.2 ⟨⟨hb, hsrc, by simpa using hs, hl, hp, hc⟩, h.session⟩

theorem resultOf_ended {t : State} (h : Ended t) : ∃ r, resultOf t.responses = some r := by
  obtain ⟨⟨r, rest, x, hr, hx⟩, -⟩ := h
  exact ⟨⟨outElements rest, x⟩, by simp [resultOf, hr, hx]⟩

/-- Settles O56: every `PULL` of a session ends it or leaves fewer to come, of which there are at most `k + 3`. -/
theorem sessionEndsWithinTheBound : Obligations.SessionEndsWithinTheBound := by
  refine ⟨fun k s h ha => ?_, fun k m d src s h hs => ?_⟩
  · have hi : s.phase ≠ .idle := fun hp => by simp [hp, Phase.active] at ha
    obtain ⟨t, ht, -, hp⟩ := pullUntilEnd_ends (k := k) h hi (pullsLeft_le h)
    exact ⟨t, ht, hp⟩
  · obtain ⟨t, ht, hend⟩ := pullUntilEnd_startWith k m d (stateInv_linedUp h hs) rfl
    obtain ⟨r, hr⟩ := resultOf_ended hend
    exact ⟨r, by simp only [streamResult, ht, hr]⟩

end Sys2Proof.Machine
end

section
/-!
PROOFS. Bit vectors as polynomials over GF(2) (spec/30_encoding.md R65, R67), and what the two loops of `FE.MULT`
(spec/40_field_engine.md R95, R97) do to them.
-/

namespace Sys2Proof.Machine

open Sys2Proof.Claims Polynomial

/-! ### The polynomial of a bit vector (R65) -/

/-- The coefficients of the polynomial are the bits. -/
theorem bitPoly_coeff (v i : Nat) : (bitPoly v).coeff i = if v.testBit i then 1 else 0 := by
  have hterm (j : Nat) :
      (if v.testBit j then (X : (ZMod 2)[X]) ^ j else 0).coeff i =
        if i = j then (if v.testBit j then 1 else 0) else 0 := by
    split <;> simp [coeff_X_pow]
  have hsize (h : v.testBit i = true) : i < v.size := Nat.lt_size.2 (Nat.ge_two_pow_of_testBit h)
  simp only [bitPoly, finsetSum_coeff, hterm, Finset.sum_ite_eq, Finset.mem_range]
  split_ifs <;> tauto

/-- A bit vector is determined by its polynomial. -/
theorem bitPoly_injective : Function.Injective bitPoly := by
  intro v w h
  refine Nat.eq_of_testBit_eq fun i => ?_
  have hi : (bitPoly v).coeff i = (bitPoly w).coeff i := by rw [h]
  rw [bitPoly_coeff, bitPoly_coeff] at hi
  cases hv : v.testBit i <;> cases hw : w.testBit i <;> simp_all

@[simp] theorem bitPoly_zero : bitPoly 0 = 0 := by simp [bitPoly]

/-- XOR is addition over GF(2). -/
theorem bitPoly_xor (v w : Nat) : bitPoly (v ^^^ w) = bitPoly v + bitPoly w := by
  ext i
  simp only [coeff_add, bitPoly_coeff, Nat.testBit_xor]
  cases v.testBit i <;> cases w.testBit i <;> decide

/-- Shifting left by `k` is multiplication by `x^k`. -/
theorem bitPoly_shiftLeft (v k : Nat) : bitPoly (v <<< k) = bitPoly v * X ^ k := by
  ext i
  rw [coeff_mul_X_pow', bitPoly_coeff, bitPoly_coeff, Nat.testBit_shiftLeft]
  by_cases h : k ≤ i <;> simp [h]

theorem bitPoly_two_pow (k : Nat) : bitPoly (2 ^ k) = X ^ k := by
  ext i
  simp [bitPoly_coeff, coeff_X_pow, Nat.testBit_two_pow, eq_comm]

/-- The sum may run over any range that holds all the bits. -/
theorem bitPoly_eq_sum {v n : Nat} (h : v < 2 ^ n) :
    bitPoly v = ∑ i ∈ Finset.range n, if v.testBit i then X ^ i else 0 := by
  refine Finset.sum_subset (Finset.range_mono (Nat.size_le.2 h)) fun i _ hi => ?_
  have hbit : v.testBit i = false := Nat.testBit_lt_two_pow (Nat.size_le.1 (by simpa using hi))
  simp [hbit]

/-- The dense pattern stands for the polynomial of its exponent set (R67). -/
theorem bitPoly_dense (p : ExpSet) : bitPoly (dense p) = expPoly p := by
  ext i
  simp [bitPoly_coeff, dense_testBit, expPoly, finsetSum_coeff, coeff_X_pow]

/-! ### The carry-less product is the product (R95) -/

/-- The loop over `i` multiplier bits multiplies by the terms of the multiplier below `x^i`. -/
theorem bitPoly_clProduct_eq_sum (a b i : Nat) :
    bitPoly (clProduct a b i) = bitPoly a * ∑ j ∈ Finset.range i, if b.testBit j then X ^ j else 0 := by
  induction i with
  | zero => simp [clProduct]
  | succ i ih =>
    rw [Finset.sum_range_succ, mul_add, ← ih]
    cases hb : b.testBit i with
    | true => simp [clProduct, hb, bitPoly_xor, bitPoly_shiftLeft]
    | false => simp [clProduct, hb]

/-- With one pass for each bit of the multiplier the loop gives the whole product. -/
theorem bitPoly_clProduct {b n : Nat} (hb : b < 2 ^ n) (a : Nat) :
    bitPoly (clProduct a b n) = bitPoly a * bitPoly b := by
  rw [bitPoly_clProduct_eq_sum, bitPoly_eq_sum hb]

theorem clProduct_comm {a b n : Nat} (ha : a < 2 ^ n) (hb : b < 2 ^ n) : clProduct a b n = clProduct b a n := by
  apply bitPoly_injective
  rw [bitPoly_clProduct hb, bitPoly_clProduct ha, mul_comm]

/-- Multiplying by 1 changes nothing. -/
theorem clProduct_one {n : Nat} (hn : 0 < n) (a : Nat) : clProduct a 1 n = a := by
  have hone : bitPoly 1 = 1 := bitPoly_two_pow 0
  apply bitPoly_injective
  rw [bitPoly_clProduct (Nat.one_lt_two_pow hn.ne'), hone, mul_one]

/-- Powers of `x` multiply by adding their exponents. -/
theorem clProduct_two_pow {k n : Nat} (hk : k < n) (j : Nat) : clProduct (2 ^ j) (2 ^ k) n = 2 ^ (j + k) := by
  apply bitPoly_injective
  rw [bitPoly_clProduct (Nat.pow_lt_pow_right (by omega) hk), bitPoly_two_pow, bitPoly_two_pow, bitPoly_two_pow,
    pow_add]

/-! ### The reduction subtracts multiples of the polynomial (R97) -/

/-- What the loop leaves differs from what it was given by a multiple of `m`. -/
theorem reduceBits_congruent (m n i t : Nat) :
    ∃ q, bitPoly t = q * bitPoly m + bitPoly (reduceBits m n i t) := by
  induction i generalizing t with
  | zero => exact ⟨0, by simp [reduceBits]⟩
  | succ i ih =>
    cases ht : t.testBit (n + i) with
    | false => simpa [reduceBits, ht] using ih t
    | true =>
      obtain ⟨q, hq⟩ := ih (t ^^^ (m <<< i))
      rw [bitPoly_xor, bitPoly_shiftLeft, CharTwo.add_eq_iff_eq_add] at hq
      refine ⟨q + X ^ i, ?_⟩
      simp only [reduceBits, ht, if_true, hq]
      ring

/-! ### The reduction clears the bits it tests (R97, R98) -/

/-- The loop over the positions below `n + i` leaves the bits from `n + i` on as they are. -/
theorem reduceBits_testBit_of_ge {m n i j : Nat} (hm : m < 2 ^ (n + 1)) (hj : n + i ≤ j) (t : Nat) :
    (reduceBits m n i t).testBit j = t.testBit j := by
  induction i generalizing t with
  | zero => rfl
  | succ i ih =>
    have hshift : (m <<< i).testBit j = false := by
      rw [Nat.testBit_shiftLeft, Nat.testBit_lt_two_pow (hm.trans_le (Nat.pow_le_pow_right (by omega) (by omega))),
        Bool.and_false]
    rw [reduceBits, ih (by omega)]
    split
    · rw [Nat.testBit_xor, hshift, Bool.xor_false]
    · rfl

/-- Every position the loop tests is 0 when it ends, however large the value it was given. -/
theorem reduceBits_testBit_tested {m n i k : Nat} (hm : m < 2 ^ (n + 1)) (hb : m.testBit n = true) (hk : k < i)
    (t : Nat) : (reduceBits m n i t).testBit (n + k) = false := by
  induction i generalizing t with
  | zero => omega
  | succ i ih =>
    rw [reduceBits]
    obtain h | rfl := Nat.lt_succ_iff_lt_or_eq.1 hk
    · exact ih h _
    · rw [reduceBits_testBit_of_ge hm le_rfl]
      cases ht : t.testBit (n + k) <;> simp [ht, Nat.testBit_xor, Nat.testBit_shiftLeft, hb]

/-- Taking away the top bit of a pattern of degree `n`. -/
theorem two_pow_xor_eq_sub {m n : Nat} (hm : m < 2 ^ (n + 1)) (hb : m.testBit n = true) : 2 ^ n ^^^ m = m - 2 ^ n := by
  have hge : 2 ^ n ≤ m := Nat.ge_two_pow_of_testBit hb
  have hlt : 2 ^ n ^^^ m < 2 ^ n := by
    simpa [reduceBits] using reduceBits_lt hm hb 1 (2 ^ n) (by simp [Nat.pow_succ])
  calc 2 ^ n ^^^ m
    _ = (2 ^ n ^^^ m) % 2 ^ n := (Nat.mod_eq_of_lt hlt).symm
    _ = m % 2 ^ n := by rw [Nat.xor_mod_two_pow, Nat.mod_self, Nat.zero_xor]
    _ = m - 2 ^ n := by rw [Nat.mod_eq_sub_mod hge, Nat.mod_eq_of_lt (by rw [Nat.pow_succ] at hm; omega)]

/-- `x^n` is reduced in the last pass, by one subtraction of the pattern. -/
theorem reduceBits_two_pow {m n i : Nat} (hm : m < 2 ^ (n + 1)) (hb : m.testBit n = true) (hi : 0 < i) :
    reduceBits m n i (2 ^ n) = m - 2 ^ n := by
  induction i, hi using Nat.le_induction with
  | base => simp [reduceBits, two_pow_xor_eq_sub hm hb]
  | succ i hi ih =>
    have htop : (2 ^ n).testBit (n + i) = false := by simp [Nat.testBit_two_pow]; omega
    simpa [reduceBits, htop] using ih

end Sys2Proof.Machine
end

section
/-!
PROOFS. What the four Field Engine commands answer (spec/40_field_engine.md R90 to R102).
-/

namespace Sys2Proof.Machine

/-! ### A command answers what its operation gives, and writes nothing else (R102, R197) -/

/-- The response an operation's result is given as. -/
def responseOf : Except FaultClass Elem → Response
  | .ok x => .elem x
  | .error f => .fault f

theorem answerElem_eq_respond (x : Except FaultClass Elem) (s : State) : answerElem x s = respond (responseOf x) s := by
  cases x <;> rfl

theorem exec_feNew (n v : Nat) (s : State) : exec (.feNew n v) s = .next (respond (responseOf (feNewOp n v)) s) :=
  congrArg _ (answerElem_eq_respond ..)

theorem exec_feToint (a : Elem) (s : State) : exec (.feToint a) s = .next (respond (.int a.v) s) := rfl

theorem exec_feXor (a b : Elem) (s : State) : exec (.feXor a b) s = .next (respond (responseOf (feXorOp a b)) s) :=
  congrArg _ (answerElem_eq_respond ..)

theorem exec_feMult (a b : Elem) (p : Option ExpSet) (s : State) :
    exec (.feMult a b p) s = .next (respond (responseOf (feMultOp a b p)) s) :=
  congrArg _ (answerElem_eq_respond ..)

/-- Settles O16: the response is that of the operation on the operands, which takes no state. -/
theorem fieldEngineIsPure : Obligations.FieldEngineIsPure := by
  rintro i (⟨n, v, rfl⟩ | ⟨a, rfl⟩ | ⟨a, b, rfl⟩ | ⟨a, b, p, rfl⟩)
  · exact ⟨_, exec_feNew n v⟩
  · exact ⟨_, exec_feToint a⟩
  · exact ⟨_, exec_feXor a b⟩
  · exact ⟨_, exec_feMult a b p⟩

/-! ### Well-formed elements (R65) -/

theorem elem_wf_iff {x : Elem} : x.wf = true ↔ 0 < x.n ∧ x.v < 2 ^ x.n := by
  simp [Elem.wf]

/-! ### `FE.NEW` and `FE.TOINT` (R91, R92) -/

theorem responseOf_feNewOp (n v : Nat) :
    responseOf (feNewOp n v) = if v < 2 ^ n then .elem ⟨n, v⟩ else .fault .range := by
  by_cases h : v < 2 ^ n
  · simp [feNewOp_ok h, responseOf, h]
  · simp [feNewOp, responseOf, h, Nat.not_lt.1 h]

/-- Settles O7: the word is that of the instruction's encoding, and the integer fits the width or does not. -/
theorem feNewBuildsTheElementOrRangeError : Obligations.FeNewBuildsTheElementOrRangeError := by
  refine ⟨fun n v hn => ?_, fun n v s => ?_⟩
  · exact encodeThenDecodeGivesTheInstruction (.feNew n v) (decide_eq_true hn)
  · rw [exec_feNew, responseOf_feNewOp]
    rfl

/-- Settles O8: an element that `FE.NEW` answers holds the integer it was given. -/
theorem feTointGivesTheInteger : Obligations.FeTointGivesTheInteger := by
  refine ⟨exec_feToint, fun n v x s t h hx => ?_⟩
  rw [exec_feNew, responseOf_feNewOp] at h
  cases h
  have hval : x.v = v := by
    rw [respond_responses, List.cons.injEq] at hx
    obtain ⟨hx, -⟩ := hx
    split at hx
    · cases hx
      rfl
    · cases hx
  rw [exec_feToint, hval]
  rfl

/-! ### `FE.XOR` (R93) -/

theorem responseOf_feXorOp (a b : Elem) :
    responseOf (feXorOp a b) = if a.n = b.n then .elem ⟨a.n, a.v ^^^ b.v⟩ else .fault .argument := by
  by_cases h : a.n = b.n
  · simp [feXorOp_ok h, responseOf, h]
  · simp [feXorOp, responseOf, h]

/-- Two bit vectors of one width. -/
theorem feXorOp_mk (n v w : Nat) : feXorOp ⟨n, v⟩ ⟨n, w⟩ = .ok ⟨n, v ^^^ w⟩ := feXorOp_ok rfl

/-- Settles O9: the laws are those of bitwise XOR. -/
theorem feXorAddsOrArgumentError : Obligations.FeXorAddsOrArgumentError := by
  refine ⟨fun a b ha hb => ?_, fun a b s => ?_, fun a b ha hb hn => ?_, fun a b s hn => ?_,
    fun ⟨n, v⟩ b c s hab hbc => ?_, fun ⟨n, v⟩ s => ?_⟩
  · exact encodeThenDecodeGivesTheInstruction (.feXor a b) (by simp [Instr.wf, ha, hb])
  · rw [exec_feXor, responseOf_feXorOp]
    rfl
  · obtain ⟨-, hav⟩ := elem_wf_iff.1 ha
    obtain ⟨-, hbv⟩ := elem_wf_iff.1 hb
    exact Nat.xor_lt_two_pow hav (hn ▸ hbv)
  · rw [exec_feXor, exec_feXor, feXorOp_ok hn, feXorOp_ok hn.symm, hn, Nat.xor_comm]
  · obtain ⟨nb, w⟩ := b
    obtain ⟨nc, x⟩ := c
    obtain rfl : n = nb := hab
    obtain rfl : n = nc := hbc
    rw [exec_feXor, exec_feXor, feXorOp_mk, feXorOp_mk, Nat.xor_assoc]
  · rw [exec_feXor, feXorOp_mk, Nat.xor_self]
    rfl

/-! ### `SELPOLY` (R90, R68) -/

theorem selPoly_some (n : Nat) (p : ExpSet) :
    selPoly n (some p) = if n ∈ p ∧ (∀ e ∈ p, e ≤ n) then .ok p else .error .configuration := by
  simp only [selPoly, degreeIs_iff]

/-- There are designated polynomials for five widths only (R68). -/
theorem stdPoly_eq_none {n : Nat} (h : n ∉ [8, 64, 128, 256, 512]) : stdPoly n = none := by
  unfold stdPoly
  split <;> simp_all

/-- Settles O10: a supplied polynomial of degree `n`, or the designated one of one of the five widths. -/
theorem selpolyChoosesThePolynomial : Obligations.SelpolyChoosesThePolynomial := by
  refine ⟨selPoly_some, fun n hn => ?_, rfl, rfl, rfl, rfl, rfl⟩
  simp only [selPoly, stdPoly_eq_none hn]

/-! ### `FE.MULT` (R94 to R98) -/

theorem feMultOp_of_ne {a b : Elem} (h : a.n ≠ b.n) (p : Option ExpSet) : feMultOp a b p = .error .argument := by
  simp [feMultOp, h]

theorem feMultOp_of_selPoly_error {a b : Elem} {p : Option ExpSet} {f : FaultClass} (h : a.n = b.n)
    (hp : selPoly a.n p = .error f) : feMultOp a b p = .error f := by
  simp [feMultOp, h, h ▸ hp]

theorem feMultOp_of_selPoly_ok {a b : Elem} {popt : Option ExpSet} {p : ExpSet} (h : a.n = b.n)
    (hp : selPoly a.n popt = .ok p) :
    feMultOp a b popt = truncateChecked a.n (reduceBits (dense p) a.n a.n (clProduct a.v b.v a.n)) := by
  simp [feMultOp, h, h ▸ hp]

/-- With a polynomial that `SELPOLY` accepts the check of step 4 passes, whatever the operands hold (R98). -/
theorem truncateChecked_reduceBits {n : Nat} {popt : Option ExpSet} {p : ExpSet} (hp : selPoly n popt = .ok p)
    (t : Nat) : ∃ x, truncateChecked n (reduceBits (dense p) n n t) = .ok x := by
  have hclear : reduceBits (dense p) n n t / 2 ^ n % 2 ^ n = 0 := by
    refine Nat.eq_of_testBit_eq fun k => ?_
    rw [Nat.testBit_mod_two_pow, Nat.testBit_div_two_pow, Nat.zero_testBit, Bool.and_eq_false_imp]
    intro hk
    rw [Nat.add_comm]
    exact reduceBits_testBit_tested (dense_lt_of_selPoly hp) (dense_testBit_of_selPoly hp) (of_decide_eq_true hk) t
  exact ⟨_, if_neg (not_not.2 hclear)⟩

/-- Every fault of `FE.MULT` is one of its two precondition violations. -/
theorem feMultOp_error {a b : Elem} {popt : Option ExpSet} {f : FaultClass} (h : feMultOp a b popt = .error f) :
    f = .argument ∨ f = .configuration := by
  by_cases hn : a.n = b.n
  · cases hp : selPoly a.n popt with
    | error g =>
      obtain rfl : g = f := by simpa [feMultOp_of_selPoly_error hn hp] using h
      exact .inr (selPoly_error hp)
    | ok p =>
      obtain ⟨x, hx⟩ := truncateChecked_reduceBits hp (clProduct a.v b.v a.n)
      simp [feMultOp_of_selPoly_ok hn hp, hx] at h
  · obtain rfl : FaultClass.argument = f := by simpa [feMultOp_of_ne hn] using h
    exact .inl rfl

theorem feMultOp_comm {a b : Elem} (ha : a.wf = true) (hb : b.wf = true) (p : Option ExpSet) :
    feMultOp a b p = feMultOp b a p := by
  obtain ⟨-, hav⟩ := elem_wf_iff.1 ha
  obtain ⟨-, hbv⟩ := elem_wf_iff.1 hb
  by_cases hn : a.n = b.n
  · simp only [feMultOp, hn, clProduct_comm (hn ▸ hav) hbv]
  · rw [feMultOp_of_ne hn, feMultOp_of_ne (Ne.symm hn)]

/-- Settles O12: the first loop gives the product, the second leaves its remainder. -/
theorem feMultIsTheProductModuloThePolynomial : Obligations.FeMultIsTheProductModuloThePolynomial := by
  intro a b popt p s ha hb hn hp
  obtain ⟨-, hav⟩ := elem_wf_iff.1 ha
  obtain ⟨-, hbv⟩ := elem_wf_iff.1 hb
  obtain ⟨hlt, hmult⟩ := feMultOp_ok hav hn hp
  obtain ⟨q, hq⟩ := reduceBits_congruent (dense p) a.n a.n (clProduct a.v b.v a.n)
  refine ⟨_, q, ?_, hlt, ?_⟩
  · rw [exec_feMult, hmult]
    rfl
  · rw [← bitPoly_clProduct (hn ▸ hbv), hq, bitPoly_dense]

/-- Settles O13: a fault of `FE.MULT` is an ArgumentError or a ConfigurationError. -/
theorem feMultNeverViolatesItsInvariant : Obligations.FeMultNeverViolatesItsInvariant := by
  intro a b p s t h hr
  rw [exec_feMult] at h
  cases h
  rw [respond_responses, List.cons.injEq] at hr
  obtain ⟨hr, -⟩ := hr
  cases hm : feMultOp a b p with
  | ok x => simp [hm, responseOf] at hr
  | error f => obtain rfl | rfl := feMultOp_error hm <;> simp [hm, responseOf] at hr

/-- Settles O14: the product of the polynomials is commutative, and neither precondition tells the operands apart. -/
theorem feMultCommutes : Obligations.FeMultCommutes := by
  intro a b p s ha hb
  rw [exec_feMult, exec_feMult, feMultOp_comm ha hb]

/-- Settles O11: the two tests in their order. -/
theorem feMultFaultsInOrder : Obligations.FeMultFaultsInOrder := by
  refine ⟨fun a b p s hn => ?_, fun a b p s hn hp => ?_⟩
  · rw [exec_feMult, feMultOp_of_ne hn]
    rfl
  · rw [exec_feMult, feMultOp_of_selPoly_error hn hp]
    rfl

/-! ### Corner cases (R93, R99) -/

/-- Where the product needs no reduction, it is the answer. -/
theorem feMultOp_of_clProduct_lt {n v w : Nat} {popt : Option ExpSet} {p : ExpSet} (hp : selPoly n popt = .ok p)
    (h : clProduct v w n < 2 ^ n) : feMultOp ⟨n, v⟩ ⟨n, w⟩ popt = .ok ⟨n, clProduct v w n⟩ := by
  rw [feMultOp_of_selPoly_ok (by rfl) hp, reduceBits_of_lt h, truncateChecked_of_lt h]

/-- The top bit times `x` is reduced by one subtraction of the polynomial. -/
theorem feMultOp_topBit_two {n : Nat} {popt : Option ExpSet} {p : ExpSet} (hn : 2 ≤ n) (hp : selPoly n popt = .ok p) :
    feMultOp ⟨n, 2 ^ (n - 1)⟩ ⟨n, 2⟩ popt = .ok ⟨n, dense p - 2 ^ n⟩ := by
  have htop : 2 ^ (n - 1) < 2 ^ n := Nat.pow_lt_pow_right (by omega) (by omega)
  have hprod : clProduct (2 ^ (n - 1)) 2 n = 2 ^ n := by
    simpa [Nat.sub_add_cancel (show 1 ≤ n by omega)] using clProduct_two_pow (show 1 < n by omega) (n - 1)
  have hred : reduceBits (dense p) n n (2 ^ n) = dense p - 2 ^ n :=
    reduceBits_two_pow (dense_lt_of_selPoly hp) (dense_testBit_of_selPoly hp) (by omega)
  obtain ⟨-, h⟩ := feMultOp_ok (a := ⟨n, 2 ^ (n - 1)⟩) (b := ⟨n, 2⟩) htop rfl hp
  rwa [hprod, hred] at h

/-- Settles O15: the corner cases of the product, of which only the last needs the polynomial. -/
theorem fieldEngineCornerCases : Obligations.FieldEngineCornerCases := by
  refine ⟨fun ⟨n, v⟩ s => ?_, fun ⟨n, v⟩ popt p s ha hp => ?_⟩
  · rw [exec_feXor, feXorOp_mk, Nat.xor_zero]
    rfl
  · obtain ⟨hn, hv⟩ := elem_wf_iff.1 ha
    have hone : clProduct v 1 n = v := clProduct_one hn v
    refine ⟨?_, ?_, ?_, fun h2 => ?_⟩
    · rw [exec_feMult, feMultOp_of_clProduct_lt hp (by simp), clProduct_zero_right]
      rfl
    · rw [exec_feMult, feMultOp_of_clProduct_lt hp (by simp), clProduct_zero_left]
      rfl
    · rw [exec_feMult, feMultOp_of_clProduct_lt hp (by rwa [hone]), hone]
      rfl
    · rw [exec_feMult, feMultOp_topBit_two h2 hp]
      rfl

end Sys2Proof.Machine
end

section
/-!
PROOFS. The Block Sequencer (spec/41_block_sequencer.md R110 to R118): `SeqNext()` case by case on what the attached source has
still to give, what a row of calls delivers, and how `FRAME(S, B)` cuts a content.
-/

namespace Sys2Proof.Machine

/-! ### `SeqNext()`, case by case (R112) -/

/-- What `SeqNext()` leaves of `s`: the sequencer registers `q`, the source with `left` still to give, and the `SRC` calls
`u`, newest first. A source that nobody had named is drawn by its first call (log 4). -/
def sequenced (s : State) (u : List PortCall) (left : Source) (q : Sequencer) : State :=
  { s with
    seq := q
    src := some left
    drawn := if s.src = none then s.drawn + 1 else s.drawn
    calls := u ++ s.calls }

@[simp] theorem sequenced_seq (s : State) (u : List PortCall) (left : Source) (q : Sequencer) :
    (sequenced s u left q).seq = q := rfl

@[simp] theorem attachedSource_sequenced (s : State) (u : List PortCall) (left : Source) (q : Sequencer) :
    attachedSource (sequenced s u left q) = left := rfl

theorem sequenced_sequenced (s : State) (u v : List PortCall) (left left' : Source) (q q' : Sequencer) :
    sequenced (sequenced s u left q) v left' q' = sequenced s (v ++ u) left' q' := by
  simp [sequenced]

theorem setSeq_afterSrcNext {s : State} {src : Source} (h : attachedSource s = src) (q : Sequencer) :
    setSeq q (afterSrcNext s) = sequenced s [.srcNext (sourceNext src).1] (sourceNext src).2 q := by
  subst h
  simp only [setSeq, afterSrcNext, logCall, srcAnswer, sequenced, Option.isNone_iff_eq_none, List.singleton_append]

theorem srcAnswer_of_attachedSource {s : State} {src : Source} (h : attachedSource s = src) :
    srcAnswer s = (sourceNext src).1 :=
  h ▸ rfl

section
variable {s : State} {la c d : Bytes} {rest : List Bytes} {e : SourceEnd}

theorem seqNextPrimed_chunk (la : Bytes) (h : attachedSource s = ⟨d :: rest, e⟩) :
    seqNextPrimed la s = (sequenced s [.srcNext (.chunk d)] ⟨rest, e⟩ (.primed d), .item la false) := by
  simp only [seqNextPrimed, srcAnswer_of_attachedSource h, setSeq_afterSrcNext h, sourceNext_cons, isLastOf]

theorem seqNextPrimed_eof (la : Bytes) (h : attachedSource s = ⟨[], .eof⟩) :
    seqNextPrimed la s = (sequenced s [.srcNext .eof] ⟨[], .eof⟩ .exhausted, .item la true) := by
  simp only [seqNextPrimed, srcAnswer_of_attachedSource h, setSeq_afterSrcNext h, sourceNext_eof, isLastOf]

theorem seqNextPrimed_failure (la : Bytes) (h : attachedSource s = ⟨[], .failure⟩) :
    seqNextPrimed la s = (sequenced s [.srcNext .failure] ⟨[], .failure⟩ .failed, .failed) := by
  simp only [seqNextPrimed, srcAnswer_of_attachedSource h, setSeq_afterSrcNext h, sourceNext_failure]

theorem seqNext_of_primed (hq : s.seq = .primed la) : seqNext s = seqNextPrimed la s := by
  simp only [seqNext, hq]

/-- The first call reads a chunk and goes on as if it had been in `LA` (R112). -/
theorem seqNext_of_unprimed_chunk (hq : s.seq = .unprimed) (h : attachedSource s = ⟨c :: rest, e⟩) :
    seqNext s = seqNextPrimed c (sequenced s [.srcNext (.chunk c)] ⟨rest, e⟩ (.primed c)) := by
  simp only [seqNext, hq, srcAnswer_of_attachedSource h, setSeq_afterSrcNext h, sourceNext_cons]

theorem seqNext_of_unprimed_eof (hq : s.seq = .unprimed) (h : attachedSource s = ⟨[], .eof⟩) :
    seqNext s = (sequenced s [.srcNext .eof] ⟨[], .eof⟩ .exhausted, .item [] true) := by
  simp only [seqNext, hq, srcAnswer_of_attachedSource h, setSeq_afterSrcNext h, sourceNext_eof, isLastOf]

theorem seqNext_of_unprimed_failure (hq : s.seq = .unprimed) (h : attachedSource s = ⟨[], .failure⟩) :
    seqNext s = (sequenced s [.srcNext .failure] ⟨[], .failure⟩ .failed, .failed) := by
  simp only [seqNext, hq, srcAnswer_of_attachedSource h, setSeq_afterSrcNext h, sourceNext_failure]

theorem seqNext_of_exhausted (hq : s.seq = .exhausted) : seqNext s = (s, .finished) := by
  simp only [seqNext, hq]

theorem seqNext_of_failed (hq : s.seq = .failed) : seqNext s = (s, .failed) := by
  simp only [seqNext, hq]

end

/-- Settles O18: the phase of the sequencer and the next answers of the source decide each case. -/
theorem seqNextFollowsR112 : Obligations.SeqNextFollowsR112 := by
  intro s
  refine ⟨fun hq e h => ?_, fun hq c e h => ?_, fun hq c d rest e h => ?_, fun la hq e h => ?_,
    fun la hq d rest e h => ?_, seqNext_of_exhausted, seqNext_of_failed⟩
  · cases e with
    | eof => exact seqNext_of_unprimed_eof hq h
    | failure => exact seqNext_of_unprimed_failure hq h
  · rw [seqNext_of_unprimed_chunk hq h]
    cases e with
    | eof => rw [seqNextPrimed_eof c (attachedSource_sequenced ..), sequenced_sequenced]; rfl
    | failure => rw [seqNextPrimed_failure c (attachedSource_sequenced ..), sequenced_sequenced]; rfl
  · rw [seqNext_of_unprimed_chunk hq h, seqNextPrimed_chunk c (attachedSource_sequenced ..), sequenced_sequenced]
    rfl
  · rw [seqNext_of_primed hq]
    cases e with
    | eof => exact seqNextPrimed_eof la h
    | failure => exact seqNextPrimed_failure la h
  · rw [seqNext_of_primed hq]
    exact seqNextPrimed_chunk la h

/-! ### A row of calls -/

theorem seqRun_succ (k : Nat) (s : State) : seqRun (k + 1) s = (seqNext s).2 :: seqRun k (seqNext s).1 := rfl

theorem seqRun_of_exhausted {s : State} (hq : s.seq = .exhausted) (k : Nat) :
    seqRun k s = List.replicate k .finished := by
  induction k with
  | zero => rfl
  | succ k ih => rw [seqRun_succ, seqNext_of_exhausted hq, ih, List.replicate_succ]

theorem seqRun_of_failed {s : State} (hq : s.seq = .failed) (k : Nat) : seqRun k s = List.replicate k .failed := by
  induction k with
  | zero => rfl
  | succ k ih => rw [seqRun_succ, seqNext_of_failed hq, ih, List.replicate_succ]

/-- From `UNPRIMED` the calls give what they give once the first chunk is in `LA` (R112). -/
theorem seqRun_of_unprimed_chunk {s : State} {c : Bytes} {rest : List Bytes} {e : SourceEnd} (hq : s.seq = .unprimed)
    (h : attachedSource s = ⟨c :: rest, e⟩) (k : Nat) :
    seqRun k s = seqRun k (sequenced s [.srcNext (.chunk c)] ⟨rest, e⟩ (.primed c)) := by
  cases k with
  | zero => rfl
  | succ k => rw [seqRun_succ, seqRun_succ, seqNext_of_unprimed_chunk hq h, seqNext_of_primed (sequenced_seq ..)]

@[simp] theorem length_tagFinal (cs : List Bytes) : (tagFinal cs).length = cs.length := by
  induction cs using tagFinal.induct with
  | case1 | case2 => rfl
  | case3 c d rest ih => simpa [tagFinal] using ih

/-- With a chunk in `LA`, a source that ends gives it and its own chunks, the final one tagged, then `End` (R113). -/
theorem seqRun_of_primed_eof {s : State} {la : Bytes} {chunks : List Bytes} (hq : s.seq = .primed la)
    (h : attachedSource s = ⟨chunks, .eof⟩) (k : Nat) :
    seqRun (chunks.length + 1 + k) s =
      (tagFinal (la :: chunks)).map (fun x => .item x.1 x.2) ++ List.replicate k .finished := by
  induction chunks generalizing s la with
  | nil =>
    rw [List.length_nil, Nat.zero_add, Nat.add_comm, seqRun_succ, seqNext_of_primed hq, seqNextPrimed_eof la h,
      seqRun_of_exhausted (sequenced_seq ..)]
    rfl
  | cons d rest ih =>
    rw [List.length_cons, Nat.add_right_comm _ 1 k, seqRun_succ, seqNext_of_primed hq, seqNextPrimed_chunk la h,
      ih (sequenced_seq ..) (attachedSource_sequenced ..)]
    rfl

/-- With a chunk in `LA`, a source that fails keeps the last chunk back (R114). -/
theorem seqRun_of_primed_failure {s : State} {la : Bytes} {chunks : List Bytes} (hq : s.seq = .primed la)
    (h : attachedSource s = ⟨chunks, .failure⟩) (k : Nat) :
    seqRun (chunks.length + k) s =
      (la :: chunks).dropLast.map (fun c => .item c false) ++ List.replicate k .failed := by
  induction chunks generalizing s la with
  | nil =>
    rw [List.length_nil, Nat.zero_add]
    cases k with
    | zero => rfl
    | succ k =>
      rw [seqRun_succ, seqNext_of_primed hq, seqNextPrimed_failure la h, seqRun_of_failed (sequenced_seq ..)]
      rfl
  | cons d rest ih =>
    rw [List.length_cons, Nat.add_right_comm, seqRun_succ, seqNext_of_primed hq, seqNextPrimed_chunk la h, ih (sequenced_seq ..) (attachedSource_sequenced ..)]
    rfl

/-- Settles O21: an empty source fails at once; from any other the first chunk comes into `LA`, and the last one never
leaves it. -/
theorem failingSourceSurfacesOneItemEarly : Obligations.FailingSourceSurfacesOneItemEarly := by
  intro s chunks k hq h
  cases chunks with
  | nil =>
    rw [List.dropLast_nil, List.length_nil, Nat.zero_add]
    cases k with
    | zero => rfl
    | succ k =>
      rw [seqRun_succ, seqNext_of_unprimed_failure hq h, seqRun_of_failed (sequenced_seq ..)]
      rfl
  | cons c rest =>
    rw [List.length_dropLast, List.length_cons, Nat.add_sub_cancel, seqRun_of_unprimed_chunk hq h]
    exact seqRun_of_primed_failure (sequenced_seq ..) (attachedSource_sequenced ..) k

/-! ### `FRAME(S, B)` (R110) -/

theorem map_fst_tagFinal (cs : List Bytes) : (tagFinal cs).map Prod.fst = cs := by
  induction cs using tagFinal.induct with
  | case1 | case2 => rfl
  | case3 c d rest ih => rw [tagFinal, List.map_cons, ih]

theorem tagFinal_append_singleton (cs : List Bytes) (c : Bytes) :
    tagFinal (cs ++ [c]) = cs.map (·, false) ++ [(c, true)] := by
  induction cs with
  | nil => rfl
  | cons d rest ih =>
    obtain ⟨x, xs, hx⟩ : ∃ x xs, rest ++ [c] = x :: xs := List.exists_cons_of_ne_nil (by simp)
    rw [List.cons_append, hx, tagFinal, ← hx, ih]
    rfl

theorem length_chunkAt (b : Nat) (content : Bytes) (i : Nat) :
    (chunkAt b content i).length = min b (content.length - i * b) := by
  rw [chunkAt, List.length_take, List.length_drop]

theorem length_chunksOf (b : Nat) (content : Bytes) :
    (chunksOf b content).length = (content.length + b - 1) / b := by
  rw [chunksOf, List.length_map, List.length_range]

/-- The first `n` chunks are the first `n` blocks of the content. -/
theorem flatten_chunkAt (b : Nat) (content : Bytes) (n : Nat) :
    ((List.range n).map (chunkAt b content)).flatten = content.take (n * b) := by
  induction n with
  | zero => simp
  | succ n ih =>
    rw [List.range_succ, List.map_append, List.flatten_append, ih, Nat.succ_mul, List.take_add]
    simp [chunkAt]

theorem chunksOf_nil {b : Nat} (hb : 0 < b) : chunksOf b [] = [] := by
  rw [chunksOf, List.length_nil, Nat.zero_add, Nat.div_eq_of_lt (by omega)]
  rfl

theorem flatten_chunksOf {b : Nat} (hb : 0 < b) (content : Bytes) : (chunksOf b content).flatten = content := by
  have hcover : content.length ≤ (content.length + b - 1) / b * b := by
    have := Nat.lt_div_mul_add (a := content.length + b - 1) hb
    omega
  rw [chunksOf, flatten_chunkAt, List.take_of_length_le hcover]

/-- A content that is not empty has a final chunk, short perhaps but not empty, after chunks of one block each. -/
theorem chunksOf_eq_append {b : Nat} (hb : 0 < b) {content : Bytes} (hc : content ≠ []) :
    ∃ cs c, chunksOf b content = cs ++ [c] ∧ c.length ≤ b ∧ c ≠ [] ∧ ∀ x ∈ cs, x.length = b := by
  have hL : 0 < content.length := List.length_pos_iff.2 hc
  have hcount : (content.length + b - 1) / b = (content.length - 1) / b + 1 := by
    rw [← Nat.add_div_right _ hb]
    congr 1
    omega
  have hm : (content.length - 1) / b * b ≤ content.length - 1 := Nat.div_mul_le_self ..
  refine ⟨(List.range ((content.length - 1) / b)).map (chunkAt b content), chunkAt b content ((content.length - 1) / b),
    ?_, ?_, ?_, ?_⟩
  · rw [chunksOf, hcount, List.range_succ, List.map_append, List.map_singleton]
  · rw [length_chunkAt]
    exact Nat.min_le_left ..
  · rw [← List.length_pos_iff, length_chunkAt]
    omega
  · intro x hx
    obtain ⟨i, hi, rfl⟩ := List.mem_map.1 hx
    have hi : (i + 1) * b ≤ (content.length - 1) / b * b := Nat.mul_le_mul_right b (List.mem_range.1 hi)
    rw [length_chunkAt]
    rw [Nat.succ_mul] at hi
    omega

theorem frame_nil (b : Nat) : frame b [] = [([], true)] := if_pos rfl

theorem frame_of_ne_nil {b : Nat} {content : Bytes} (hc : content ≠ []) :
    frame b content = tagFinal (chunksOf b content) :=
  if_neg hc

/-- Settles O20: the empty content has its one item; any other is its chunks, of which the final one is tagged. -/
theorem frameCutsTheContent : Obligations.FrameCutsTheContent := by
  intro b content hb
  by_cases hc : content = []
  · subst hc
    rw [frame_nil, List.length_nil, Nat.zero_add, Nat.div_eq_of_lt (by omega)]
    exact ⟨rfl, ⟨[], [], rfl, Nat.zero_le b, fun _ => rfl, nofun⟩, rfl⟩
  · obtain ⟨cs, c, hcut, hle, hne, hfull⟩ := chunksOf_eq_append hb hc
    have hcount : 0 < (content.length + b - 1) / b := by
      rw [← length_chunksOf, hcut, List.length_append]
      exact Nat.succ_pos _
    rw [frame_of_ne_nil hc]
    refine ⟨?_, ⟨cs.map (·, false), c, ?_, hle, fun h => absurd h hne, ?_⟩, ?_⟩
    · rw [map_fst_tagFinal, flatten_chunksOf hb]
    · rw [hcut, tagFinal_append_singleton]
    · intro x hx
      obtain ⟨y, hy, rfl⟩ := List.mem_map.1 hx
      exact ⟨rfl, hfull y hy⟩
    · rw [length_tagFinal, length_chunksOf, Nat.max_eq_right hcount]

/-- Settles O19: the empty content ends at the first call; from any other the first chunk comes into `LA`, and the calls
give the chunks in order, the final one tagged. -/
theorem sequencerDeliversTheFrame : Obligations.SequencerDeliversTheFrame := by
  intro s content k hb hq h
  rw [sourceOf] at h
  by_cases hc : content = []
  · rw [hc, chunksOf_nil hb] at h
    rw [hc, frame_nil, List.length_singleton, Nat.add_comm, seqRun_succ, seqNext_of_unprimed_eof hq h,
      seqRun_of_exhausted (sequenced_seq ..)]
    rfl
  · obtain ⟨cs, d, hcut, -⟩ := chunksOf_eq_append hb hc
    obtain ⟨c, rest, hcons⟩ : ∃ c rest, chunksOf s.bsize content = c :: rest :=
      List.exists_cons_of_ne_nil (by simp [hcut])
    rw [hcons] at h
    rw [frame_of_ne_nil hc, length_tagFinal, hcons, List.length_cons, seqRun_of_unprimed_chunk hq h]
    exact seqRun_of_primed_eof (sequenced_seq ..) (attachedSource_sequenced ..) k

end Sys2Proof.Machine
end

section
/-!
PROOFS. The command `SEQ.NEXT` (spec/41_block_sequencer.md R118), and where a command is refused: a source that breaks the type
of `SrcNext()` (spec/41 R117, spec/60_exceptions.md R204) and operands that cannot be expressed (spec/30_encoding.md R80).
-/

namespace Sys2Proof.Machine

/-! ### `SEQ.NEXT` -/

theorem exec_seqNext_of_not_idle {s : State} (h : s.phase ≠ .idle) : exec .seqNext s = .next (reject s) :=
  if_pos h

theorem exec_seqNext_of_idle {s : State} (h : s.phase = .idle) (hf : sourceFits s = true) :
    exec .seqNext s = .next (respond (seqNext s).2.response (seqNext s).1) := by
  rw [exec, execSeqNext, if_neg (not_not.2 h), if_pos hf]

theorem exec_seqNext_of_not_fits {s : State} (h : s.phase = .idle) (hf : sourceFits s = false) :
    exec .seqNext s = .refused .chunkLongerThanBlock := by
  rw [exec, execSeqNext, if_neg (not_not.2 h), if_neg (by simp [hf])]

/-- Settles O17: in `IDLE` the command runs `SeqNext()`, whose frame is the sequencer and the source, and answers what it
gave. -/
theorem seqNextCommandAnswersTheItem : Obligations.SeqNextCommandAnswersTheItem := by
  refine ⟨by decide, fun s h => exec_seqNext_of_not_idle h, fun s h hf => ?_⟩
  obtain ⟨q, src, d, l, hframe⟩ := seqNext_frame s
  refine ⟨q, src, d, l, (seqNext s).2, Prod.ext hframe rfl, ?_⟩
  rw [exec_seqNext_of_idle h hf, hframe]
  cases (seqNext s).2 <;> rfl

/-! ### A step that takes an item -/

theorem withItem_of_not_fits {s : State} (hf : sourceFits s = false) (body : State → Bytes → Bool → Result) :
    withItem s body = .refused .chunkLongerThanBlock :=
  if_neg (by simp [hf])

/-- A `PULL` takes an item in `CHAINING`, in every mode, and in `START` to decrypt in CBC and AEAD (R123 to R161). -/
theorem pullWith_takes_item (k : Collab) {s : State} {m : Mode} {d : Dir} (hm : s.mode = some m) (hd : s.dir = some d)
    (hp : s.phase = .chaining ∨ (s.phase = .start ∧ d = .dec ∧ (m = .cbc ∨ m = .aead))) :
    ∃ body, pullWith k s = withItem s body := by
  have hs : pullWith k s = sessionPull k s := by
    obtain hp | ⟨hp, -⟩ := hp
    · simp only [pullWith, hp]
    · simp only [pullWith, hp]
  rw [hs]
  obtain hp | ⟨hp, rfl, hmm⟩ := hp
  · cases m with
    | ecb => cases d <;> exact ⟨_, by simp only [sessionPull, hm, hd, ecbPull, hp, ne_eq, not_true, if_false]; rfl⟩
    | cbc => cases d <;> exact ⟨_, by simp only [sessionPull, hm, hd, cbcPull, hp]; rfl⟩
    | ctr => exact ⟨_, by simp only [sessionPull, hm, hd, ctrPull, hp, ne_eq, not_true, if_false]; rfl⟩
    | aead => cases d <;> exact ⟨_, by simp only [sessionPull, hm, hd, aeadPull, hp]; rfl⟩
  · obtain rfl | rfl := hmm
    · exact ⟨_, by simp only [sessionPull, hm, hd, cbcPull, hp]; rfl⟩
    · exact ⟨_, by simp only [sessionPull, hm, hd, aeadPull, hp]; rfl⟩

/-! ### Nothing else is refused -/

/-- The step is refused, if at all, for a source that breaks the type of `SrcNext()` (R117). -/
def RefusesOnlyLongChunks (s : State) (r : Result) : Prop :=
  ∀ x, r = .refused x → x = .chunkLongerThanBlock ∧ sourceFits s = false

/-- `SeqNext()` keeps the source's type, whatever is in `LA`. -/
theorem sourceFits_seqNext {s : State} (hf : sourceFits s = true) : sourceFits (seqNext s).1 = true := by
  have hp : ∀ (la : Bytes) (u : State), sourceFits u = true → sourceFits (seqNextPrimed la u).1 = true := by
    intro la u hu
    unfold seqNextPrimed
    split <;> exact sourceFits_afterSrcNext hu
  cases hq : s.seq with
  | unprimed =>
    simp only [seqNext, hq]
    split
    · exact sourceFits_afterSrcNext hf
    · exact sourceFits_afterSrcNext hf
    · exact hp _ _ (sourceFits_afterSrcNext hf)
  | primed la => exact seqNext_of_primed hq ▸ hp la s hf
  | exhausted => exact seqNext_of_exhausted hq ▸ hf
  | failed => exact seqNext_of_failed hq ▸ hf

section
variable {s : State}

theorem refusesOnly_next (t : State) : RefusesOnlyLongChunks s (.next t) := nofun

theorem refusesOnly_fault (x : Fault) : RefusesOnlyLongChunks s (.fault x) := nofun

theorem refusesOnly_ite {p : Prop} [Decidable p] {a b : Result} (ha : RefusesOnlyLongChunks s a)
    (hb : RefusesOnlyLongChunks s b) : RefusesOnlyLongChunks s (if p then a else b) := by
  split
  · exact ha
  · exact hb

theorem refusesOnly_withRegs {α : Type} (x : Except Reg α) {body : α → Result}
    (hb : ∀ a, RefusesOnlyLongChunks s (body a)) : RefusesOnlyLongChunks s (withRegs x body) := by
  cases x with
  | ok a => exact hb a
  | error r => exact refusesOnly_fault _

theorem refusesOnly_withValue {α : Type} (x : Except FaultClass α) (u : State) {body : α → Result}
    (hb : ∀ a, RefusesOnlyLongChunks s (body a)) : RefusesOnlyLongChunks s (withValue x u body) := by
  cases x with
  | ok a => exact hb a
  | error f => exact refusesOnly_next _

/-- Taking an item refuses a source that does not fit; whatever follows has the item of one that does. -/
theorem refusesOnly_withItem {body : State → Bytes → Bool → Result}
    (hb : ∀ c last, RefusesOnlyLongChunks s (body (seqNext s).1 c last)) :
    RefusesOnlyLongChunks s (withItem s body) := by
  cases hf : sourceFits s with
  | false =>
    rw [withItem_of_not_fits hf]
    rintro x ⟨⟩
    exact ⟨rfl, hf⟩
  | true =>
    unfold withItem
    rw [if_pos hf]
    cases (seqNext s).2 with
    | item c last => exact hb c last
    | failed => exact refusesOnly_next _
    | finished => exact refusesOnly_fault _

/-- A step that goes on with a second item reads the same source, which fits if it did before the first. -/
theorem RefusesOnlyLongChunks.after_seqNext {u : State} {r : Result} (h : RefusesOnlyLongChunks u r)
    (hu : sourceFits u = sourceFits (seqNext s).1) : RefusesOnlyLongChunks s r := by
  intro x e
  obtain ⟨hx, hf⟩ := h x e
  refine ⟨hx, Bool.eq_false_iff.2 fun hs => ?_⟩
  rw [hu, sourceFits_seqNext hs] at hf
  cases hf

end

theorem refusesOnly_ecbPull (k : Collab) (d : Dir) (s : State) : RefusesOnlyLongChunks s (ecbPull k d s) := by
  refine refusesOnly_ite (refusesOnly_fault _) ?_
  cases d with
  | enc =>
    have final (u : State) (c : Bytes) : RefusesOnlyLongChunks s (ecbEncFinal k u c) :=
      refusesOnly_ite (refusesOnly_next _) (refusesOnly_ite (refusesOnly_next _) (refusesOnly_next _))
    exact refusesOnly_withItem fun c _ =>
      refusesOnly_ite (final _ c) (refusesOnly_ite (refusesOnly_next _) (refusesOnly_next _))
  | dec =>
    exact refusesOnly_withItem fun _ _ =>
      refusesOnly_ite (refusesOnly_next _) (refusesOnly_ite (refusesOnly_next _) (refusesOnly_next _))

theorem refusesOnly_cbcEncChain (k : Collab) (s : State) : RefusesOnlyLongChunks s (cbcEncChain k s) := by
  have final (cv : Bytes) (u : State) (c : Bytes) : RefusesOnlyLongChunks s (cbcEncFinal k cv u c) :=
    refusesOnly_ite (refusesOnly_next _) (refusesOnly_ite (refusesOnly_next _) (refusesOnly_next _))
  exact refusesOnly_withItem fun c _ => refusesOnly_withRegs _ fun cv =>
    refusesOnly_ite (final cv _ c) (refusesOnly_ite (refusesOnly_next _) (refusesOnly_next _))

theorem refusesOnly_cbcDecChain (k : Collab) (s : State) : RefusesOnlyLongChunks s (cbcDecChain k s) :=
  refusesOnly_withItem fun _ _ => refusesOnly_ite (refusesOnly_next _) <| refusesOnly_withRegs _ fun _ =>
    refusesOnly_ite (refusesOnly_next _) (refusesOnly_next _)

theorem refusesOnly_cbcPull (k : Collab) (d : Dir) (s : State) : RefusesOnlyLongChunks s (cbcPull k d s) := by
  unfold cbcPull
  split
  · exact refusesOnly_withRegs _ fun _ => refusesOnly_next _
  · exact refusesOnly_cbcEncChain k s
  · exact refusesOnly_withItem fun _ _ => refusesOnly_ite (refusesOnly_next _)
      ((refusesOnly_cbcDecChain k _).after_seqNext rfl)
  · exact refusesOnly_cbcDecChain k s
  · exact refusesOnly_fault _

theorem refusesOnly_ctrPull (k : Collab) (s : State) : RefusesOnlyLongChunks s (ctrPull k s) :=
  refusesOnly_ite (refusesOnly_fault _) <| refusesOnly_withItem fun _ _ => refusesOnly_withRegs _ fun _ =>
    refusesOnly_ite (refusesOnly_next _) (refusesOnly_next _)

theorem refusesOnly_aeadEncData (k : Collab) (s : State) : RefusesOnlyLongChunks s (aeadEncData k s) :=
  refusesOnly_withItem fun _ _ => refusesOnly_ite (refusesOnly_next _) <| refusesOnly_withRegs _ fun _ =>
    refusesOnly_ite (refusesOnly_next _) <| refusesOnly_withValue _ _ fun _ => refusesOnly_next _

theorem refusesOnly_aeadDecChain (k : Collab) (s : State) : RefusesOnlyLongChunks s (aeadDecChain k s) := by
  have tag (u : State) (c : Bytes) : RefusesOnlyLongChunks s (aeadDecTag u c) :=
    refusesOnly_withRegs _ fun _ => refusesOnly_withValue _ _ fun _ => refusesOnly_next _
  have data (u : State) (c : Bytes) : RefusesOnlyLongChunks s (aeadDecData k u c) :=
    refusesOnly_withRegs _ fun _ => refusesOnly_withValue _ _ fun _ =>
      refusesOnly_ite (refusesOnly_next _) (refusesOnly_next _)
  exact refusesOnly_withItem fun c _ => refusesOnly_ite (refusesOnly_next _) (refusesOnly_ite (tag _ c) (data _ c))

theorem refusesOnly_aeadDecFirst (k : Collab) (s : State) : RefusesOnlyLongChunks s (aeadDecFirst k s) :=
  refusesOnly_withItem fun _ _ => refusesOnly_ite (refusesOnly_next _) <| refusesOnly_ite (refusesOnly_next _) <|
    refusesOnly_withRegs _ fun _ => refusesOnly_withValue _ _ fun _ =>
      (refusesOnly_aeadDecChain k _).after_seqNext rfl

theorem refusesOnly_aeadPull (k : Collab) (d : Dir) (s : State) : RefusesOnlyLongChunks s (aeadPull k d s) := by
  unfold aeadPull
  split
  · exact refusesOnly_withRegs _ fun _ => refusesOnly_next _
  · exact refusesOnly_aeadEncData k s
  · exact refusesOnly_withRegs _ fun _ => refusesOnly_withValue _ _ fun _ => refusesOnly_next _
  · exact refusesOnly_aeadDecFirst k s
  · exact refusesOnly_aeadDecChain k s
  · exact refusesOnly_fault _

theorem refusesOnly_sessionPull (k : Collab) (s : State) : RefusesOnlyLongChunks s (sessionPull k s) := by
  unfold sessionPull
  split
  · exact refusesOnly_ecbPull k _ s
  · exact refusesOnly_cbcPull k _ s
  · exact refusesOnly_ctrPull k s
  · exact refusesOnly_aeadPull k _ s
  · exact refusesOnly_fault _

theorem refusesOnly_pullWith (k : Collab) (s : State) : RefusesOnlyLongChunks s (pullWith k s) := by
  unfold pullWith
  cases s.phase with
  | idle | done => exact refusesOnly_next _
  | faulted =>
    cases s.fault with
    | some x => exact refusesOnly_next _
    | none => exact refusesOnly_fault _
  | start | chaining | final => exact refusesOnly_sessionPull k s

theorem refusesOnly_execSeqNext (s : State) : RefusesOnlyLongChunks s (execSeqNext s) := by
  refine refusesOnly_ite (refusesOnly_next _) ?_
  cases hf : sourceFits s with
  | true => exact refusesOnly_next _
  | false =>
    rintro x ⟨⟩
    exact ⟨rfl, hf⟩

/-! ### Operands that cannot be expressed -/

theorem writeCfg_eq_none {r : Reg} {x : Value} (s : State) (hk : x.kind ≠ r.kind) : writeCfg s r x = none := by
  unfold writeCfg
  split
  case h_7 => rfl
  all_goals exact absurd rfl hk

/-- A value not of the type of a configuration register is refused, where `CFG.WR` is legal (R178; log 5, log 24). -/
theorem exec_cfgWr_of_kind_ne {r : Reg} {x : Value} {s : State} (ha : s.phase.active = false) (hr : isCfgReg r = true)
    (hk : x.kind ≠ r.kind) : exec (.cfgWr r x) s = .refused .operandsInexpressible := by
  simp [exec, execCfgWr, ha, hr, writeCfg_eq_none s hk]

/-- `CFG.WR` refuses such a value alone. -/
theorem execCfgWr_refused {r : Reg} {x : Value} {s : State} {y : Refusal} (h : execCfgWr r x s = .refused y) :
    y = .operandsInexpressible ∧ x.kind ≠ r.kind := by
  unfold execCfgWr at h
  split at h
  · cases h
  · split at h
    · cases h
    · rename_i hr
      split at h
      · cases h
      · rename_i hw
        refine ⟨by cases h; rfl, fun hk => ?_⟩
        obtain ⟨t, ht⟩ := writeCfg_exists s ((Bool.not_eq_false _).mp hr) hk
        cases hw.symm.trans ht

theorem execRegRd_ne_refused {r : Reg} {s : State} {x : Refusal} : execRegRd r s ≠ .refused x := by
  obtain ⟨t, ht⟩ := execRegRd_answers r s
  rw [ht]
  nofun

theorem runCommand_of_illTyped {c : Command} (h : decode c = .error .illTypedOperands) (s : State) :
    runCommand c s = .refused .operandsInexpressible := by
  simp only [runCommand, h]

/-- Settles O50: reading a source that does not fit is refused, and so are ill-typed operands; every other branch of every
command answers or is stuck. -/
theorem stopsOnWhatTheTypesExclude : Obligations.StopsOnWhatTheTypesExclude := by
  refine ⟨fun s hp hf => exec_seqNext_of_not_fits hp hf, fun s m d hf hm hd hp => ?_, fun s r x ha hr hk => ?_,
    fun s c rest hp hc => ?_, fun i s x h => ?_⟩
  · obtain ⟨body, hb⟩ := pullWith_takes_item Config.collab hm hd hp
    exact hb.trans (withItem_of_not_fits hf body)
  · have hcfg : isCfgReg r = true := by
      simp only [List.mem_cons, List.not_mem_nil, or_false] at hr
      obtain rfl | rfl | rfl | rfl | rfl | rfl := hr <;> rfl
    exact exec_cfgWr_of_kind_ne ha hcfg hk
  · rw [step_of_pending hp, runCommand_of_illTyped hc]
  · cases i with
    | seqNext =>
      obtain ⟨hx, hf⟩ := refusesOnly_execSeqNext s x h
      exact .inl ⟨hx, hf, .inl rfl⟩
    | pull =>
      obtain ⟨hx, hf⟩ := refusesOnly_pullWith Config.collab s x h
      exact .inl ⟨hx, hf, .inr rfl⟩
    | cfgWr r v =>
      obtain ⟨hx, hk⟩ := execCfgWr_refused h
      exact .inr ⟨hx, r, v, rfl, hk⟩
    | regRd r => exact absurd h execRegRd_ne_refused
    | feNew | feToint | feXor | feMult | startEcbEnc | startEcbDec | startCbcEnc | startCbcDec | startCtrEnc | startCtrDec
    | startAeadEnc | startAeadDec | abandon => cases h

end Sys2Proof.Machine
end


section
/-!
PROOFS. Whole-stream calls (spec/30_encoding.md R85, spec/46_session_commands.md R180): a session's `PULL`s as the items that
`SeqNext()` still has to give and the elements that they are answered with, and how a content that is made of whole blocks is
framed (spec/41_block_sequencer.md R110).
-/

namespace Sys2Proof.Machine

/-! ### `SeqNext()` reads the source and the sequencer alone -/

section
variable {s t : State}

theorem sourceFits_congr (e : sourceFields t = sourceFields s) : sourceFits t = sourceFits s := by
  simp only [sourceFields, Prod.mk.injEq] at e
  obtain ⟨hb, hsrc, -⟩ := e
  simp only [sourceFits, hb, hsrc]

theorem attachedSource_congr (e : sourceFields t = sourceFields s) : attachedSource t = attachedSource s := by
  simp only [sourceFields, Prod.mk.injEq] at e
  obtain ⟨hb, hsrc, hd, -⟩ := e
  simp only [attachedSource, hb, hsrc, hd]

theorem sourceFields_afterSrcNext_congr (e : sourceFields t = sourceFields s) (q : Sequencer) :
    sourceFields (setSeq q (afterSrcNext t)) = sourceFields (setSeq q (afterSrcNext s)) := by
  have ha := attachedSource_congr e
  simp only [sourceFields, Prod.mk.injEq] at e
  obtain ⟨hb, hsrc, hd, -⟩ := e
  simp only [sourceFields, setSeq, afterSrcNext, logCall, ha, hb, hsrc, hd]

theorem seqNextPrimed_congr (e : sourceFields t = sourceFields s) (la : Bytes) :
    (seqNextPrimed la t).map sourceFields id = (seqNextPrimed la s).map sourceFields id := by
  have ha : srcAnswer t = srcAnswer s := congrArg (fun src => (sourceNext src).1) (attachedSource_congr e)
  have hafter := sourceFields_afterSrcNext_congr e
  simp only [seqNextPrimed, ha]
  cases srcAnswer s <;> simp only [Prod.map, hafter]

theorem seqNext_congr (e : sourceFields t = sourceFields s) :
    (seqNext t).map sourceFields id = (seqNext s).map sourceFields id := by
  have ha : srcAnswer t = srcAnswer s := congrArg (fun src => (sourceNext src).1) (attachedSource_congr e)
  have hafter := sourceFields_afterSrcNext_congr e
  have hq : t.seq = s.seq := congrArg (fun x => x.2.2.2) e
  cases hs : s.seq with
  | unprimed =>
    simp only [seqNext, hq, hs, ha]
    cases srcAnswer s with
    | chunk c => exact seqNextPrimed_congr (hafter _) c
    | eof | failure => simp only [Prod.map, hafter]
  | primed la =>
    rw [seqNext_of_primed (hq.trans hs), seqNext_of_primed hs]
    exact seqNextPrimed_congr e la
  | exhausted =>
    rw [seqNext_of_exhausted (hq.trans hs), seqNext_of_exhausted hs]
    simp only [Prod.map, e]
  | failed =>
    rw [seqNext_of_failed (hq.trans hs), seqNext_of_failed hs]
    simp only [Prod.map, e]

theorem seqRun_congr (e : sourceFields t = sourceFields s) (n : Nat) : seqRun n t = seqRun n s := by
  induction n generalizing s t with
  | zero => rfl
  | succ n ih =>
    obtain ⟨hfields, hresult⟩ := Prod.ext_iff.1 (seqNext_congr e)
    rw [seqRun_succ, seqRun_succ]
    exact congrArg₂ List.cons hresult (ih hfields)

end

/-! ### The items still to come -/

/-- `SeqNext()` gives these items, one by one, of a source that obeys its type (R112, R117). -/
def Delivers (s : State) (items : List (Bytes × Bool)) : Prop :=
  sourceFits s = true ∧ seqRun items.length s = items.map fun x => .item x.1 x.2

theorem Delivers.congr {s t : State} {items : List (Bytes × Bool)} (h : Delivers s items)
    (e : sourceFields t = sourceFields s) : Delivers t items := by
  obtain ⟨hf, hrun⟩ := h
  exact ⟨(sourceFits_congr e).trans hf, (seqRun_congr e _).trans hrun⟩

theorem Delivers.next {s : State} {c : Bytes} {last : Bool} {items : List (Bytes × Bool)}
    (h : Delivers s ((c, last) :: items)) :
    sourceFits s = true ∧ seqNext s = ((seqNext s).1, .item c last) ∧ Delivers (seqNext s).1 items := by
  obtain ⟨hf, hrun⟩ := h
  obtain ⟨hitem, hrest⟩ := List.cons.inj hrun
  exact ⟨hf, Prod.ext rfl hitem, sourceFits_seqNext hf, hrest⟩

theorem fitsBlock_sourceOf (b : Nat) (content : Bytes) : fitsBlock b (sourceOf b content) = true := by
  refine List.all_eq_true.2 fun c hc => decide_eq_true ?_
  obtain ⟨i, -, rfl⟩ := List.mem_map.1 hc
  exact List.length_take_le ..

/-- Before the first call a well-behaved source has its whole frame to give (R110). -/
theorem delivers_frame {s : State} {n : Nat} {content : Bytes} (hn : s.bsize = n) (hb : 0 < n) (hq : s.seq = .unprimed)
    (hsrc : s.src = some (sourceOf n content)) : Delivers s (frame n content) := by
  subst hn
  have ha : attachedSource s = sourceOf s.bsize content := by rw [attachedSource, hsrc, Option.getD_some]
  refine ⟨?_, ?_⟩
  · simp only [sourceFits, hsrc, fitsBlock_sourceOf]
  · simpa using sequencerDeliversTheFrame s content 0 hb hq ha

/-! ### The elements of output -/

/-- With a `PULL` for each and one more, the `PULL`s from `s` answer these elements and then `Done` (R85). -/
def Yields (k : Collab) (s : State) (elements : List Bytes) (verify : Option Bool) : Prop :=
  ∀ fuel, elements.length < fuel →
    ∃ t, pullUntilEnd k fuel s = .next t ∧
      resultOf t.responses = some ⟨outElements s.responses ++ elements, .done verify⟩

theorem yields_of_done (k : Collab) {s : State} (hp : s.phase = .done) : Yields k s [] (doneVerify s) := by
  intro fuel hfuel
  obtain ⟨fuel, rfl⟩ := Nat.exists_eq_succ_of_ne_zero hfuel.ne'
  have e : pullWith k s = .next (respond (.done (doneVerify s)) s) := by simp only [pullWith, hp]
  refine ⟨_, pullUntilEnd_of_ended fuel e ⟨⟨_, _, _, rfl, rfl⟩, .inl hp⟩, ?_⟩
  rw [respond_responses, resultOf_done, List.append_nil]

/-- A `PULL` from `s` answers this element of output and leaves `t`. -/
structure Emits (k : Collab) (s : State) (b : Bytes) (t : State) : Prop where
  pull : pullWith k s = .next t
  responses : t.responses = .out b :: s.responses

theorem emits_respond {k : Collab} {s u : State} {b : Bytes} (e : pullWith k s = .next (respond (.out b) u))
    (hu : u.responses = s.responses) : Emits k s b (respond (.out b) u) :=
  ⟨e, congrArg (Response.out b :: ·) hu⟩

theorem Yields.cons {k : Collab} {s t : State} {b : Bytes} {elements : List Bytes} {verify : Option Bool}
    (h : Yields k t elements verify) (e : Emits k s b t) : Yields k s (b :: elements) verify := by
  obtain ⟨e, hr⟩ := e
  intro fuel hfuel
  obtain ⟨fuel, rfl⟩ := Nat.exists_eq_succ_of_ne_zero (Nat.ne_zero_of_lt hfuel)
  obtain ⟨u, hu, hresult⟩ := h fuel (Nat.lt_of_succ_lt_succ hfuel)
  refine ⟨u, (pullUntilEnd_of_out fuel e hr).trans hu, ?_⟩
  rw [hresult, hr, outElements_out, List.append_assoc, List.singleton_append]

/-- A session whose steps keep `P`, turn each item `x` before the last into the element `f x`, and end with the last one. -/
theorem yields_of_items {k : Collab} {P : State → Prop} {f : Bytes → Bytes} {cs : List Bytes} {c b : Bytes}
    {verify : Option Bool}
    (hstep : ∀ s, P s → ∀ x ∈ cs, sourceFits s = true → seqNext s = ((seqNext s).1, .item x false) →
      ∃ t, Emits k s (f x) t ∧ P t ∧ sourceFields t = sourceFields (seqNext s).1)
    (hlast : ∀ s, P s → sourceFits s = true → seqNext s = ((seqNext s).1, .item c true) →
      ∃ t, Emits k s b t ∧ t.phase = .done ∧ doneVerify t = verify)
    {s : State} (hs : P s) (hitems : Delivers s (cs.map (·, false) ++ [(c, true)])) :
    Yields k s (cs.map f ++ [b]) verify := by
  induction cs generalizing s with
  | nil =>
    obtain ⟨hf, hi, -⟩ := hitems.next
    obtain ⟨t, ht, hp, hv⟩ := hlast s hs hf hi
    subst hv
    exact (yields_of_done k hp).cons ht
  | cons x cs ih =>
    obtain ⟨hf, hi, hrest⟩ := hitems.next
    obtain ⟨t, ht, hPt, hfields⟩ := hstep s hs x List.mem_cons_self hf hi
    have hyields := ih (fun u hu y hy => hstep u hu y (List.mem_cons_of_mem x hy)) hPt (hrest.congr hfields)
    exact hyields.cons ht

/-- The state in which a whole-stream call issues its `START`: the source lined up, the transcript empty (R85, R119). -/
def linedUp (src : Source) (s : State) : State := { s with sources := [src], responses := [] }

/-- A session that was opened gives its elements, concatenated, when the bound has a `PULL` for each (R180). -/
theorem streamCall_of_yields {k : Collab} {m : Mode} {d : Dir} {src : Source} {s : State} {elements : List Bytes}
    {verify : Option Bool} (hr : (startWith k m d (linedUp src s)).responses = [.ok])
    (h : Yields k (startWith k m d (linedUp src s)) elements verify) (hlen : elements.length ≤ src.chunks.length + 1) :
    streamCall k m d src s = some ⟨elements.flatten, .done verify⟩ := by
  obtain ⟨t, ht, hresult⟩ := h (pullBound src.chunks.length) (by rw [pullBound]; omega)
  have hstream : streamResult k m d src s = some ⟨elements, .done verify⟩ := by
    unfold linedUp at ht
    simp only [streamResult, ht, hresult, hr, outElements_ok, outElements_nil, List.nil_append]
  exact streamCall_of_result hstream

/-! ### Frames (R110) -/

theorem length_frame_le (b : Nat) (content : Bytes) :
    (frame b content).length ≤ (sourceOf b content).chunks.length + 1 := by
  unfold frame
  split
  · simp
  · rw [length_tagFinal]
    exact Nat.le_succ _

/-- Whole blocks and a final chunk that may be short: the frame of any content. -/
theorem frame_eq_blocks_and_final {b : Nat} (hb : 0 < b) (content : Bytes) :
    ∃ (cs : List Bytes) (c : Bytes), frame b content = cs.map (·, false) ++ [(c, true)] ∧ content = cs.flatten ++ c ∧
      c.length ≤ b ∧ ∀ x ∈ cs, x.length = b := by
  obtain ⟨hflat, ⟨items, c, hframe, hle, -, hfull⟩, -⟩ := frameCutsTheContent b content hb
  have hfalse : ∀ x ∈ items, (x.1, false) = x := fun x hx => Prod.ext rfl (hfull x hx).1.symm
  have htags : (items.map Prod.fst).map (·, false) = items := by
    rw [List.map_map]
    exact (List.map_congr_left hfalse).trans (List.map_id items)
  refine ⟨items.map Prod.fst, c, by rw [hframe, htags], ?_, hle, fun x hx => ?_⟩
  · rw [← hflat, hframe]
    simp
  · obtain ⟨y, hy, rfl⟩ := List.mem_map.1 hx
    exact (hfull y hy).2

theorem chunksOf_append {b : Nat} (hb : 0 < b) {x : Bytes} (hx : x.length = b) (content : Bytes) :
    chunksOf b (x ++ content) = x :: chunksOf b content := by
  have hcount : ((x ++ content).length + b - 1) / b = (content.length + b - 1) / b + 1 := by
    rw [← Nat.add_div_right _ hb, List.length_append]
    congr 1
    omega
  have hlater (i : Nat) : chunkAt b (x ++ content) (i + 1) = chunkAt b content i := by
    rw [chunkAt, chunkAt, Nat.succ_mul, Nat.add_comm, ← List.drop_drop, ← hx, List.drop_left]
  have hfirst : chunkAt b (x ++ content) 0 = x := by
    rw [chunkAt, Nat.zero_mul, List.drop_zero, ← hx, List.take_left]
  simp only [chunksOf, hcount, List.range_succ_eq_map, List.map_cons, List.map_map, hfirst]
  exact congrArg (x :: ·) (List.map_congr_left fun i _ => hlater i)

/-- Whole blocks are cut where they were joined. -/
theorem chunksOf_flatten {b : Nat} (hb : 0 < b) {bs : List Bytes} (h : ∀ x ∈ bs, x.length = b) :
    chunksOf b bs.flatten = bs := by
  induction bs with
  | nil => exact chunksOf_nil hb
  | cons x bs ih =>
    rw [List.forall_mem_cons] at h
    obtain ⟨hx, h⟩ := h
    rw [List.flatten_cons, chunksOf_append hb hx, ih h]

/-- The frame of whole blocks, the last one named. -/
theorem frame_of_blocks {b : Nat} (hb : 0 < b) {cs : List Bytes} {c : Bytes} (hcs : ∀ x ∈ cs, x.length = b)
    (hc : c.length = b) : frame b (cs.flatten ++ c) = cs.map (·, false) ++ [(c, true)] := by
  have hne : cs.flatten ++ c ≠ [] := List.append_ne_nil_of_right_ne_nil _ (List.ne_nil_of_length_pos (hc ▸ hb))
  have hcut : chunksOf b (cs ++ [c]).flatten = cs ++ [c] :=
    chunksOf_flatten hb (List.forall_mem_append.2 ⟨hcs, List.forall_mem_singleton.2 hc⟩)
  rw [List.flatten_append, List.flatten_singleton] at hcut
  rw [frame_of_ne_nil hne, hcut, tagFinal_append_singleton]

end Sys2Proof.Machine
end

section
/-!
PROOFS. ECB mode (spec/42_ecb.md R120 to R127): the two `START`s, the two `PULL` steps, and the round trip of whole streams.
-/

namespace Sys2Proof.Machine

open Sys2Proof.Claims

/-! ### `START` (R121, R122, R171) -/

/-- Settles O22: ECB has nothing to check, so its rule opens the session that the common part of `START` leaves. -/
theorem startEcbOpensTheSession : Obligations.StartEcbOpensTheSession :=
  fun _ => ⟨rfl, rfl⟩

/-! ### The encrypt step (R123, R125) -/

section
variable {k : Collab} {s s1 : State} {c : Bytes} {last : Bool}

theorem pullWith_ecb_enc (hp : s.phase = .chaining) (hm : s.mode = some .ecb) (hd : s.dir = some .enc) :
    pullWith k s = ecbEncStep k s := by
  simp only [pullWith, sessionPull, ecbPull, hp, hm, hd, ne_eq, not_true, if_false]

theorem bsize_of_seqNext {r : SeqResult} (hi : seqNext s = (s1, r)) : s1.bsize = s.bsize := by
  rw [← seqNext_bsize s, hi]

theorem ecbEncStep_full (hf : sourceFits s = true) (hi : seqNext s = (s1, .item c false)) (hc : c.length = s.bsize) :
    ecbEncStep k s = .next (respond (.out (encryptBlock k s.bsize c)) (logCall (.encrypt c) s1)) := by
  rw [ecbEncStep, withItem_item hf hi, if_neg Bool.false_ne_true, bsize_of_seqNext hi, if_neg (not_not.2 hc)]

theorem ecbEncStep_short (hf : sourceFits s = true) (hi : seqNext s = (s1, .item c false)) (hc : c.length ≠ s.bsize) :
    ecbEncStep k s = .next (enterFault .blockLength s1) := by
  rw [ecbEncStep, withItem_item hf hi, if_neg Bool.false_ne_true, bsize_of_seqNext hi, if_pos hc]

theorem ecbEncStep_final (hf : sourceFits s = true) (hi : seqNext s = (s1, .item c true)) :
    ecbEncStep k s = ecbEncFinal k s1 c := by
  rw [ecbEncStep, withItem_item hf hi, if_pos rfl]

/-- A padded final chunk of one block (R125). -/
theorem ecbEncFinal_one {n : Nat} {p : Bytes} (hn : s.bsize = n) (hp : k.padApply n c = p) (h1 : p.length = n) :
    ecbEncFinal k s c =
      .next (respond (.out (encryptBlock k n p)) (setPhase .done (logCall (.encrypt p) (logCall (.padApply c) s)))) := by
  subst hn hp
  simp only [ecbEncFinal, padLengthOk, logCall_bsize, h1, decide_true, Bool.true_or, Bool.true_eq_false, if_true, if_false]

/-- A padded final chunk of two blocks (R125). -/
theorem ecbEncFinal_two {n : Nat} {p : Bytes} (hn : s.bsize = n) (hp : k.padApply n c = p) (h1 : p.length ≠ n)
    (h2 : p.length = 2 * n) :
    ecbEncFinal k s c =
      .next (respond (.out (encryptBlock k n (p.take n) ++ encryptBlock k n (p.drop n)))
        (setPhase .done
          (logCall (.encrypt (p.drop n)) (logCall (.encrypt (p.take n)) (logCall (.padApply c) s))))) := by
  subst hn hp
  simp only [ecbEncFinal, padLengthOk, logCall_bsize, h2, decide_true, Bool.or_true, Bool.true_eq_false, if_false]
  exact if_neg (h2 ▸ h1)

/-- A padded final chunk of any other length (R125). -/
theorem ecbEncFinal_bad {n : Nat} {p : Bytes} (hn : s.bsize = n) (hp : k.padApply n c = p) (h1 : p.length ≠ n)
    (h2 : p.length ≠ 2 * n) : ecbEncFinal k s c = .next (enterFault .paddingScheme (logCall (.padApply c) s)) := by
  subst hn hp
  simp only [ecbEncFinal, padLengthOk, logCall_bsize, h1, h2, decide_false, Bool.or_self, if_true]

/-! ### The decrypt step (R124) -/

theorem pullWith_ecb_dec (hp : s.phase = .chaining) (hm : s.mode = some .ecb) (hd : s.dir = some .dec) :
    pullWith k s = ecbDecStep k s := by
  simp only [pullWith, sessionPull, ecbPull, hp, hm, hd, ne_eq, not_true, if_false]

theorem ecbDecStep_short (hf : sourceFits s = true) (hi : seqNext s = (s1, .item c last)) (hc : c.length ≠ s.bsize) :
    ecbDecStep k s = .next (enterFault .blockLength s1) := by
  rw [ecbDecStep, withItem_item hf hi, bsize_of_seqNext hi, if_pos hc]

theorem ecbDecStep_full (hf : sourceFits s = true) (hi : seqNext s = (s1, .item c false)) (hc : c.length = s.bsize) :
    ecbDecStep k s = .next (respond (.out (decryptBlock k s.bsize c)) (logCall (.decrypt c) s1)) := by
  rw [ecbDecStep, withItem_item hf hi, bsize_of_seqNext hi, if_neg (not_not.2 hc)]
  rfl

theorem ecbDecStep_final (hf : sourceFits s = true) (hi : seqNext s = (s1, .item c true)) (hc : c.length = s.bsize) :
    ecbDecStep k s =
      .next (respond (.out (k.padRemove s.bsize (decryptBlock k s.bsize c)))
        (setPhase .done (logCall (.padRemove (decryptBlock k s.bsize c)) (logCall (.decrypt c) s1)))) := by
  rw [ecbDecStep, withItem_item hf hi, bsize_of_seqNext hi, if_neg (not_not.2 hc), ← bsize_of_seqNext hi]
  rfl

end

/-- Settles O31: the item's tag and its length, or the length of the padded final chunk, decide the case. -/
theorem pullEcbEncrypt : Obligations.PullEcbEncrypt := by
  intro s s1 c last hp hm hd hf hi
  have hpull : exec .pull s = ecbEncStep Config.collab s := pullWith_ecb_enc hp hm hd
  simp only [hpull]
  refine ⟨?_, ?_, ?_⟩
  · rintro rfl hc
    exact ecbEncStep_full hf hi hc
  · rintro rfl hc
    exact ecbEncStep_short hf hi hc
  · rintro rfl
    have hb : s1.bsize = s.bsize := bsize_of_seqNext hi
    rw [ecbEncStep_final hf hi]
    split
    · next h1 => simp only [ecbEncFinal_one hb rfl h1, respond, setPhase, logCall]
    · next h1 =>
      split
      · next h2 => simp only [ecbEncFinal_two hb rfl h1 h2, respond, setPhase, logCall]
      · next h2 => exact ecbEncFinal_bad hb rfl h1 h2

/-- Settles O32: the item's length is tested first, then its tag. -/
theorem pullEcbDecrypt : Obligations.PullEcbDecrypt := by
  intro s s1 c last hp hm hd hf hi
  have hpull : exec .pull s = ecbDecStep Config.collab s := pullWith_ecb_dec hp hm hd
  simp only [hpull]
  refine ⟨ecbDecStep_short hf hi, ?_, ?_⟩
  · rintro hc rfl
    exact ecbDecStep_full hf hi hc
  · rintro hc rfl
    simp only [ecbDecStep_final hf hi hc, respond, setPhase, logCall]

/-! ### The elements of a session (R123, R124) -/

/-- A session of ECB in direction `d` in its only phase (R29), with block size `n`. -/
structure InEcb (n : Nat) (d : Dir) (s : State) : Prop where
  phase : s.phase = .chaining
  mode : s.mode = some .ecb
  dir : s.dir = some d
  bsize : s.bsize = n

theorem InEcb.goesOn {n : Nat} {d : Dir} {s : State} (h : InEcb n d s) (b : Bytes) (call : PortCall) :
    InEcb n d (respond (.out b) (logCall call (seqNext s).1)) := by
  obtain ⟨hp, hm, hd, hb⟩ := h
  exact ⟨by simpa using hp, by simpa using hm, by simpa using hd, by simpa using hb⟩

/-- `Done` carries no verification outcome in ECB (R81). -/
theorem doneVerify_of_ecb {t : State} (hm : t.mode = some .ecb) : doneVerify t = none := by
  simp [doneVerify, hm]

/-- The padded final chunk `c` as blocks: none or one in front, and the one `q` that the padding is removed from (R125,
R126). -/
structure PadBlocks (k : Collab) (n : Nat) (c : Bytes) (ps : List Bytes) (q : Bytes) : Prop where
  padded : k.padApply n c = ps.flatten ++ q
  front_le : ps.length ≤ 1
  front_block : ∀ x ∈ ps, x.length = n
  last_block : q.length = n
  removed : ps.flatten ++ k.padRemove n q = c

theorem padBlocks_exist {k : Collab} {n : Nat} (h : LastBlockLocal k n) {c : Bytes} (hc : c.length ≤ n) :
    ∃ ps q, PadBlocks k n c ps q := by
  obtain ⟨hlen, hremove⟩ | ⟨hlen, hremove⟩ := h c hc
  · exact ⟨[], k.padApply n c, rfl, Nat.zero_le 1, nofun, hlen, hremove⟩
  · refine ⟨[(k.padApply n c).take n], (k.padApply n c).drop n, ?_, Nat.le_refl 1, ?_, ?_, ?_⟩
    · rw [List.flatten_singleton, List.take_append_drop]
    · rw [List.forall_mem_singleton, List.length_take]
      omega
    · rw [List.length_drop]
      omega
    · rw [List.flatten_singleton, hremove]

section
variable {k : Collab} {n : Nat} {s : State} {cs ps : List Bytes} {c q : Bytes}

/-- The final chunk's element of output: its padded blocks, encrypted and joined (R123). -/
theorem ecbEncFinal_blocks (hb : 0 < n) (hs : s.bsize = n) (h : PadBlocks k n c ps q) :
    ∃ l, ecbEncFinal k s c =
      .next (respond (.out ((ps.map (encryptBlock k n)).flatten ++ encryptBlock k n q))
        (setPhase .done { s with calls := l })) := by
  obtain ⟨hpad, hlen, hps, hq, -⟩ := h
  match ps, hlen with
  | [], _ => exact ⟨_, ecbEncFinal_one hs hpad hq⟩
  | [x], _ =>
    have hx : x.length = n := hps x List.mem_cons_self
    rw [List.flatten_singleton] at hpad
    have h2 : (x ++ q).length = 2 * n := by
      rw [List.length_append]
      omega
    have hfinal := ecbEncFinal_two hs hpad (by omega) h2
    rw [List.take_left' hx, List.drop_left' hx] at hfinal
    rw [List.map_singleton, List.flatten_singleton]
    exact ⟨_, hfinal⟩

/-- An encrypt session answers each block encrypted, and the final chunk padded and encrypted. -/
theorem ecbEnc_yields (hb : 0 < n) (hs : InEcb n .enc s) (hitems : Delivers s (cs.map (·, false) ++ [(c, true)]))
    (hcs : ∀ x ∈ cs, x.length = n) (h : PadBlocks k n c ps q) :
    Yields k s (cs.map (encryptBlock k n) ++ [(ps.map (encryptBlock k n)).flatten ++ encryptBlock k n q]) none := by
  refine yields_of_items (P := InEcb n .enc) (fun u hu x hx hf hi => ?_) (fun u hu hf hi => ?_) hs hitems
  · have hstep := ecbEncStep_full (k := k) hf hi ((hcs x hx).trans hu.bsize.symm)
    rw [← pullWith_ecb_enc hu.phase hu.mode hu.dir, hu.bsize] at hstep
    exact ⟨_, emits_respond hstep (by simp), hu.goesOn _ _, by simp [sourceFields]⟩
  · obtain ⟨l, hfinal⟩ := ecbEncFinal_blocks hb ((seqNext_bsize u).trans hu.bsize) h
    rw [← ecbEncStep_final hf hi, ← pullWith_ecb_enc hu.phase hu.mode hu.dir] at hfinal
    exact ⟨_, emits_respond hfinal (by simp), rfl, doneVerify_of_ecb (by simpa using hu.mode)⟩

/-- A decrypt session answers each block decrypted, and the padding removed from the last one. -/
theorem ecbDec_yields (hs : InEcb n .dec s) (hitems : Delivers s (cs.map (·, false) ++ [(c, true)]))
    (hcs : ∀ x ∈ cs, x.length = n) (hc : c.length = n) :
    Yields k s (cs.map (decryptBlock k n) ++ [k.padRemove n (decryptBlock k n c)]) none := by
  refine yields_of_items (P := InEcb n .dec) (fun u hu x hx hf hi => ?_) (fun u hu hf hi => ?_) hs hitems
  · have hstep := ecbDecStep_full (k := k) hf hi ((hcs x hx).trans hu.bsize.symm)
    rw [← pullWith_ecb_dec hu.phase hu.mode hu.dir, hu.bsize] at hstep
    exact ⟨_, emits_respond hstep (by simp), hu.goesOn _ _, by simp [sourceFields]⟩
  · have hfinal := ecbDecStep_final (k := k) hf hi (hc.trans hu.bsize.symm)
    rw [← pullWith_ecb_dec hu.phase hu.mode hu.dir, hu.bsize] at hfinal
    exact ⟨_, emits_respond hfinal (by simp), rfl, doneVerify_of_ecb (by simpa using hu.mode)⟩

end

/-! ### The round trip -/

theorem startWith_ecb (k : Collab) (d : Dir) (s : State) :
    startWith k .ecb d s = respond .ok (setPhase .chaining (setKind .ecb d (clearSession s))) := by
  cases d <;> rfl

theorem inEcb_startWith (k : Collab) (d : Dir) (s : State) : InEcb s.bsize d (startWith k .ecb d s) := by
  rw [startWith_ecb]
  constructor <;> simp

/-- An ECB call over a content gives what its session yields of the content's frame. -/
theorem streamCall_ecb {k : Collab} {d : Dir} {s : State} {content : Bytes} {elements : List Bytes} (hb : 0 < s.bsize)
    (hlen : elements.length = (frame s.bsize content).length)
    (h : ∀ u, InEcb s.bsize d u → Delivers u (frame s.bsize content) → Yields k u elements none) :
    streamCall k .ecb d (sourceOf s.bsize content) s = some ⟨elements.flatten, .done none⟩ := by
  have hstart := startWith_ecb k d (linedUp (sourceOf s.bsize content) s)
  have hu : InEcb s.bsize d (startWith k .ecb d (linedUp (sourceOf s.bsize content) s)) :=
    inEcb_startWith k d (linedUp (sourceOf s.bsize content) s)
  have hitems : Delivers (startWith k .ecb d (linedUp (sourceOf s.bsize content) s)) (frame s.bsize content) :=
    delivers_frame hu.bsize hb (by rw [hstart]; rfl) (startWith_src ..)
  exact streamCall_of_yields (by rw [hstart]; rfl) (h _ hu hitems) (hlen ▸ length_frame_le ..)

/-- `ENCRYPT ECB` gives every block of the content and of its padded final chunk, encrypted. -/
theorem streamCall_ecb_enc {k : Collab} {s : State} {content c q : Bytes} {cs ps : List Bytes} (hb : 0 < s.bsize)
    (hframe : frame s.bsize content = cs.map (·, false) ++ [(c, true)]) (hcs : ∀ x ∈ cs, x.length = s.bsize)
    (h : PadBlocks k s.bsize c ps q) :
    streamCall k .ecb .enc (sourceOf s.bsize content) s =
      some ⟨((cs ++ ps).map (encryptBlock k s.bsize)).flatten ++ encryptBlock k s.bsize q, .done none⟩ := by
  rw [streamCall_ecb hb (by rw [hframe]; simp) fun u hu hitems => ecbEnc_yields hb hu (hframe ▸ hitems) hcs h]
  simp

/-- `DECRYPT ECB` of whole blocks gives each of them decrypted, the last one without its padding. -/
theorem streamCall_ecb_dec {k : Collab} {s : State} {cs : List Bytes} {c : Bytes} (hb : 0 < s.bsize)
    (hcs : ∀ x ∈ cs, x.length = s.bsize) (hc : c.length = s.bsize) :
    streamCall k .ecb .dec (sourceOf s.bsize (cs.flatten ++ c)) s =
      some ⟨(cs.map (decryptBlock k s.bsize)).flatten ++ k.padRemove s.bsize (decryptBlock k s.bsize c),
        .done none⟩ := by
  have hframe := frame_of_blocks hb hcs hc
  rw [streamCall_ecb hb (by rw [hframe]; simp) fun u hu hitems => ecbDec_yields hu (hframe ▸ hitems) hcs hc]
  simp

theorem decryptBlock_encryptBlock {k : Collab} {n : Nat} (h : Inverts k n) {b : Bytes} (hb : b.length = n) :
    decryptBlock k n (encryptBlock k n b) = b := by
  rw [decryptBlock, encryptBlock, toBlock_of_block, h, toBlock_toList hb]

theorem map_decryptBlock_encryptBlock {k : Collab} {n : Nat} (h : Inverts k n) {bs : List Bytes}
    (hbs : ∀ x ∈ bs, x.length = n) : (bs.map (encryptBlock k n)).map (decryptBlock k n) = bs := by
  have hback : ∀ x ∈ bs, decryptBlock k n (encryptBlock k n x) = x := fun x hx => decryptBlock_encryptBlock h (hbs x hx)
  rw [List.map_map]
  exact (List.map_congr_left hback).trans (List.map_id bs)

/-- Settles O57: encrypting makes one block of each block of the plaintext and of its padded final chunk; those blocks are
the frame that decrypting gets, and it undoes them one by one. -/
theorem ecbRoundTrip : Obligations.EcbRoundTrip := by
  intro k s plain hb hinv hpadding
  obtain ⟨cs, c, hframe, hplain, hc, hcs⟩ := frame_eq_blocks_and_final hb plain
  obtain ⟨ps, q, hpad⟩ := padBlocks_exist hpadding hc
  have hblocks : ∀ x ∈ cs ++ ps, x.length = s.bsize := List.forall_mem_append.2 ⟨hcs, hpad.front_block⟩
  have hcipher : ∀ x ∈ (cs ++ ps).map (encryptBlock k s.bsize), x.length = s.bsize :=
    List.forall_mem_map.2 fun _ _ => encryptBlock_length ..
  refine ⟨_, streamCall_ecb_enc hb hframe hcs hpad, ?_⟩
  rw [streamCall_ecb_dec hb hcipher (encryptBlock_length ..), map_decryptBlock_encryptBlock hinv hblocks,
    decryptBlock_encryptBlock hinv hpad.last_block, List.flatten_append, List.append_assoc, hpad.removed, hplain]

end Sys2Proof.Machine
end

section
/-!
PROOFS. Sessions whose steps hand a value on from one item to the next (spec/46_session_commands.md R172, R180): the elements
that such a session answers, and the whole-stream call up to the bound on its `PULL`s.
-/

namespace Sys2Proof.Machine

/-! ### A value carried through the items -/

section
variable {α : Type} {next : α → Bytes → α} {f : α → Bytes → Bytes}

/-- The elements of output of a session that holds `a`: each item `x` gives `f a x`, and `next a x` is held from then on. -/
def carryMap (next : α → Bytes → α) (f : α → Bytes → Bytes) : α → List Bytes → List Bytes
  | _, [] => []
  | a, x :: xs => f a x :: carryMap next f (next a x) xs

@[simp] theorem carryMap_nil (a : α) : carryMap next f a [] = [] := rfl

@[simp] theorem carryMap_cons (a : α) (x : Bytes) (xs : List Bytes) :
    carryMap next f a (x :: xs) = f a x :: carryMap next f (next a x) xs := rfl

@[simp] theorem length_carryMap (a : α) (xs : List Bytes) : (carryMap next f a xs).length = xs.length := by
  induction xs generalizing a with
  | nil => rfl
  | cons x xs ih => rw [carryMap_cons, List.length_cons, List.length_cons, ih]

theorem carryMap_append (a : α) (xs ys : List Bytes) :
    carryMap next f a (xs ++ ys) = carryMap next f a xs ++ carryMap next f (xs.foldl next a) ys := by
  induction xs generalizing a with
  | nil => rfl
  | cons x xs ih => exact congrArg (f a x :: ·) (ih (next a x))

theorem forall_mem_carryMap {p : Bytes → Prop} (h : ∀ a x, p (f a x)) (a : α) (xs : List Bytes) :
    ∀ y ∈ carryMap next f a xs, p y := by
  induction xs generalizing a with
  | nil => exact nofun
  | cons x xs ih => exact List.forall_mem_cons.2 ⟨h a x, ih (next a x)⟩

/-- A session that holds `a` where `P a` is true, turns each item before the last into its element, and ends with the last
one. -/
theorem yields_of_carry {k : Collab} {P : α → State → Prop} {last : α → Bytes} {cs : List Bytes} {c : Bytes}
    {verify : Option Bool}
    (hstep : ∀ a s, P a s → ∀ x ∈ cs, sourceFits s = true → seqNext s = ((seqNext s).1, .item x false) →
      ∃ t, Emits k s (f a x) t ∧ P (next a x) t ∧ sourceFields t = sourceFields (seqNext s).1)
    (hlast : ∀ a s, P a s → sourceFits s = true → seqNext s = ((seqNext s).1, .item c true) →
      ∃ t, Emits k s (last a) t ∧ t.phase = .done ∧ doneVerify t = verify)
    {a : α} {s : State} (hs : P a s) (hitems : Delivers s (cs.map (·, false) ++ [(c, true)])) :
    Yields k s (carryMap next f a cs ++ [last (cs.foldl next a)]) verify := by
  induction cs generalizing a s with
  | nil =>
    obtain ⟨hf, hi, -⟩ := hitems.next
    obtain ⟨t, ht, hp, hv⟩ := hlast a s hs hf hi
    subst hv
    exact (yields_of_done k hp).cons ht
  | cons x cs ih =>
    obtain ⟨hf, hi, hrest⟩ := hitems.next
    obtain ⟨t, ht, hPt, hfields⟩ := hstep a s hs x List.mem_cons_self hf hi
    have hyields := ih (fun b u hu y hy => hstep b u hu y (List.mem_cons_of_mem x hy)) hPt (hrest.congr hfields)
    exact hyields.cons ht

end

/-! ### A whole-stream call -/

/-- What a session yields depends on its transcript so far and on its next `PULL`. -/
theorem Yields.of_pullWith_eq {k : Collab} {s u : State} {elements : List Bytes} {verify : Option Bool}
    (h : Yields k u elements verify) (e : pullWith k s = pullWith k u) (hr : s.responses = u.responses) :
    Yields k s elements verify := by
  intro fuel hfuel
  obtain ⟨t, ht, hresult⟩ := h fuel hfuel
  obtain ⟨fuel, rfl⟩ := Nat.exists_eq_succ_of_ne_zero (Nat.ne_zero_of_lt hfuel)
  refine ⟨t, ?_, hr ▸ hresult⟩
  rw [← ht, pullUntilEnd, pullUntilEnd, e]

/-- A session that was opened over a content gives its elements, concatenated, when the frame of the content has an item for
each, or for each but one (R110, R180). -/
theorem streamCall_of_frame {k : Collab} {m : Mode} {d : Dir} {b : Nat} {content : Bytes} {s : State} {elements : List Bytes}
    {verify : Option Bool} (hr : (startWith k m d (linedUp (sourceOf b content) s)).responses = [.ok])
    (h : Yields k (startWith k m d (linedUp (sourceOf b content) s)) elements verify)
    (hlen : elements.length ≤ (frame b content).length + 1) :
    streamCall k m d (sourceOf b content) s = some ⟨elements.flatten, .done verify⟩ := by
  have hbound : elements.length < pullBound (sourceOf b content).chunks.length := by
    have := length_frame_le b content
    rw [pullBound]
    omega
  obtain ⟨t, ht, hresult⟩ := h _ hbound
  have hstream : streamResult k m d (sourceOf b content) s = some ⟨elements, .done verify⟩ := by
    unfold linedUp at ht
    simp only [streamResult, ht, hresult, hr, outElements_ok, outElements_nil, List.nil_append]
  exact streamCall_of_result hstream

end Sys2Proof.Machine
end

section
/-!
PROOFS. CBC mode (spec/43_cbc.md R130 to R137): the two `START`s, the two `PULL` steps, and the round trip of whole streams.
-/

namespace Sys2Proof.Machine

open Sys2Proof.Claims

/-! ### `START` (R131, R132, R171) -/

/-- A CBC session just opened in direction `d`, with `cv` in `CV` (R131, R132). -/
def cbcOpened (d : Dir) (cv : Option Bytes) (s : State) : State :=
  respond .ok (setCv cv (setPhase .start (setKind .cbc d (clearSession s))))

theorem startWith_cbc_enc (k : Collab) {s : State} {iv : Bytes} (hiv : s.iv = some iv) (hl : iv.length = s.bsize) :
    startWith k .cbc .enc s = cbcOpened .enc (some iv) s := by
  have hrule : cbcEncStart (clearSession s) =
      .ok (setCv (some iv) (setPhase .start (setKind .cbc .enc (clearSession s)))) := by
    simp only [cbcEncStart, clearSession_iv, clearSession_bsize, hiv, hl, ne_eq, not_true, if_false]
  simp only [startWith, startRule, startSession, hrule, cbcOpened]

theorem startWith_cbc_enc_refused (k : Collab) {s : State} (hiv : ∀ iv, s.iv = some iv → iv.length ≠ s.bsize) :
    startWith k .cbc .enc s = enterFault .configuration (setKind .cbc .enc (clearSession s)) := by
  have hrule : cbcEncStart (clearSession s) = .error .configuration := by
    obtain ⟨iv, h, hl, -⟩ | h := cbcEncStart_cases (clearSession s)
    · exact absurd hl (hiv iv h)
    · exact h
  simp only [startWith, startRule, startSession, hrule]

theorem startWith_cbc_dec (k : Collab) (s : State) :
    startWith k .cbc .dec s = cbcOpened .dec none s := rfl

/-- Settles O23: the rule's one check, on the state that the common part of `START` leaves, decides the case. -/
theorem startCbcEncLoadsTheIv : Obligations.StartCbcEncLoadsTheIv := by
  refine ⟨fun s iv hiv hl => ?_, fun s hiv => ?_⟩
  · exact congrArg Host.Outcome.next (startWith_cbc_enc Config.collab hiv hl)
  · exact congrArg Host.Outcome.next (startWith_cbc_enc_refused Config.collab hiv)

/-- Settles O24: CBC decrypt has nothing to check, so its rule opens the session that the common part of `START` leaves. -/
theorem startCbcDecOpensTheSession : Obligations.StartCbcDecOpensTheSession :=
  fun s => congrArg Host.Outcome.next (startWith_cbc_dec Config.collab s)

/-! ### The encrypt step (R133) -/

/-- The block `x` encrypted with the chaining value `cv` (R133). -/
def cbcEncBlock (k : Collab) (n : Nat) (cv x : Bytes) : Bytes := encryptBlock k n (bxor x cv)

/-- The block `c` decrypted with the chaining value `cv` (R134). -/
def cbcDecBlock (k : Collab) (n : Nat) (cv c : Bytes) : Bytes := bxor (decryptBlock k n c) cv

section
variable {k : Collab} {s s1 : State} {cv c : Bytes} {last : Bool}

theorem pullWith_cbc_enc_start (hp : s.phase = .start) (hm : s.mode = some .cbc) (hd : s.dir = some .enc) :
    pullWith k s = cbcEncFirst s := by
  simp only [pullWith, sessionPull, cbcPull, hp, hm, hd]

theorem pullWith_cbc_enc (hp : s.phase = .chaining) (hm : s.mode = some .cbc) (hd : s.dir = some .enc) :
    pullWith k s = cbcEncChain k s := by
  simp only [pullWith, sessionPull, cbcPull, hp, hm, hd]

theorem cbcEncFirst_eq (hcv : s.cv = some cv) : cbcEncFirst s = .next (respond (.out cv) (setPhase .chaining s)) := by
  rw [cbcEncFirst, hcv, need_some, withRegs_ok]

theorem cv_of_seqNext {r : SeqResult} (hi : seqNext s = (s1, r)) : s1.cv = s.cv := by
  rw [← seqNext_cv s, hi]

/-- A CBC encrypt step that gets an item, with the chaining value it reads. -/
theorem cbcEncChain_item (hf : sourceFits s = true) (hcv : s.cv = some cv) (hi : seqNext s = (s1, .item c last)) :
    cbcEncChain k s =
      if last then cbcEncFinal k cv s1 c
      else if c.length ≠ s.bsize then .next (enterFault .blockLength s1)
      else .next (respond (.out (cbcEncBlock k s.bsize cv c))
        (setCv (some (cbcEncBlock k s.bsize cv c)) (logCall (.encrypt (bxor c cv)) s1))) := by
  rw [cbcEncChain, withItem_item hf hi, cv_of_seqNext hi, hcv, need_some, withRegs_ok, bsize_of_seqNext hi]
  rfl

theorem cbcEncChain_full (hf : sourceFits s = true) (hcv : s.cv = some cv) (hi : seqNext s = (s1, .item c false))
    (hc : c.length = s.bsize) :
    cbcEncChain k s =
      .next (respond (.out (cbcEncBlock k s.bsize cv c))
        (setCv (some (cbcEncBlock k s.bsize cv c)) (logCall (.encrypt (bxor c cv)) s1))) := by
  rw [cbcEncChain_item hf hcv hi, if_neg Bool.false_ne_true, if_neg (not_not.2 hc)]

theorem cbcEncChain_short (hf : sourceFits s = true) (hcv : s.cv = some cv) (hi : seqNext s = (s1, .item c false))
    (hc : c.length ≠ s.bsize) : cbcEncChain k s = .next (enterFault .blockLength s1) := by
  rw [cbcEncChain_item hf hcv hi, if_neg Bool.false_ne_true, if_pos hc]

theorem cbcEncChain_final (hf : sourceFits s = true) (hcv : s.cv = some cv) (hi : seqNext s = (s1, .item c true)) :
    cbcEncChain k s = cbcEncFinal k cv s1 c := by
  rw [cbcEncChain_item hf hcv hi, if_pos rfl]

/-- A padded final chunk of one block (R125, R133). -/
theorem cbcEncFinal_one {n : Nat} {p : Bytes} (hn : s.bsize = n) (hp : k.padApply n c = p) (h1 : p.length = n) :
    cbcEncFinal k cv s c =
      .next (respond (.out (cbcEncBlock k n cv (p.take n)))
        (setPhase .done (setCv none (logCall (.encrypt (bxor (p.take n) cv)) (logCall (.padApply c) s))))) := by
  subst hn hp
  simp only [cbcEncFinal, padLengthOk, logCall_bsize, h1, decide_true, Bool.true_or, Bool.true_eq_false, if_true, if_false,
    cbcEncBlock]

/-- A padded final chunk of two blocks, the second chained on the first one's result (R125, R133). -/
theorem cbcEncFinal_two {n : Nat} {p c1 : Bytes} (hn : s.bsize = n) (hp : k.padApply n c = p) (h1 : p.length ≠ n)
    (h2 : p.length = 2 * n) (hc1 : cbcEncBlock k n cv (p.take n) = c1) :
    cbcEncFinal k cv s c =
      .next (respond (.out (c1 ++ cbcEncBlock k n c1 (p.drop n)))
        (setPhase .done (setCv none
          (logCall (.encrypt (bxor (p.drop n) c1))
            (logCall (.encrypt (bxor (p.take n) cv)) (logCall (.padApply c) s)))))) := by
  subst hn hp hc1
  simp only [cbcEncFinal, padLengthOk, logCall_bsize, h2, decide_true, Bool.or_true, Bool.true_eq_false, if_false]
  exact if_neg (h2 ▸ h1)

/-- A padded final chunk of any other length (R125). -/
theorem cbcEncFinal_bad {n : Nat} {p : Bytes} (hn : s.bsize = n) (hp : k.padApply n c = p) (h1 : p.length ≠ n)
    (h2 : p.length ≠ 2 * n) :
    cbcEncFinal k cv s c = .next (enterFault .paddingScheme (logCall (.padApply c) s)) := by
  subst hn hp
  simp only [cbcEncFinal, padLengthOk, logCall_bsize, h1, h2, decide_false, Bool.or_self, if_true]

/-! ### The decrypt step (R134) -/

theorem pullWith_cbc_dec_start (hp : s.phase = .start) (hm : s.mode = some .cbc) (hd : s.dir = some .dec) :
    pullWith k s = cbcDecFirst k s := by
  simp only [pullWith, sessionPull, cbcPull, hp, hm, hd]

theorem pullWith_cbc_dec (hp : s.phase = .chaining) (hm : s.mode = some .cbc) (hd : s.dir = some .dec) :
    pullWith k s = cbcDecChain k s := by
  simp only [pullWith, sessionPull, cbcPull, hp, hm, hd]

theorem cbcDecChain_short (hf : sourceFits s = true) (hi : seqNext s = (s1, .item c last)) (hc : c.length ≠ s.bsize) :
    cbcDecChain k s = .next (enterFault .blockLength s1) := by
  rw [cbcDecChain, withItem_item hf hi, bsize_of_seqNext hi, if_pos hc]

/-- A CBC decrypt step that gets a full block, with the chaining value it reads. -/
theorem cbcDecChain_block (hf : sourceFits s = true) (hcv : s.cv = some cv) (hi : seqNext s = (s1, .item c last))
    (hc : c.length = s.bsize) :
    cbcDecChain k s =
      if last then
        .next (respond (.out (k.padRemove s.bsize (cbcDecBlock k s.bsize cv c)))
          (setPhase .done
            (setCv none (logCall (.padRemove (cbcDecBlock k s.bsize cv c)) (logCall (.decrypt c) s1)))))
      else .next (respond (.out (cbcDecBlock k s.bsize cv c)) (setCv (some c) (logCall (.decrypt c) s1))) := by
  rw [cbcDecChain, withItem_item hf hi, bsize_of_seqNext hi, if_neg (not_not.2 hc), cv_of_seqNext hi, hcv, need_some,
    withRegs_ok, ← bsize_of_seqNext hi]
  rfl

theorem cbcDecChain_full (hf : sourceFits s = true) (hcv : s.cv = some cv) (hi : seqNext s = (s1, .item c false))
    (hc : c.length = s.bsize) :
    cbcDecChain k s =
      .next (respond (.out (cbcDecBlock k s.bsize cv c)) (setCv (some c) (logCall (.decrypt c) s1))) := by
  rw [cbcDecChain_block hf hcv hi hc, if_neg Bool.false_ne_true]

theorem cbcDecChain_final (hf : sourceFits s = true) (hcv : s.cv = some cv) (hi : seqNext s = (s1, .item c true))
    (hc : c.length = s.bsize) :
    cbcDecChain k s =
      .next (respond (.out (k.padRemove s.bsize (cbcDecBlock k s.bsize cv c)))
        (setPhase .done
          (setCv none (logCall (.padRemove (cbcDecBlock k s.bsize cv c)) (logCall (.decrypt c) s1))))) := by
  rw [cbcDecChain_block hf hcv hi hc, if_pos rfl]

/-- The first item is no IV with a block after it (R134). -/
theorem cbcDecFirst_malformed (hf : sourceFits s = true) (hi : seqNext s = (s1, .item c last))
    (h : last = true ∨ c.length ≠ s.bsize) : cbcDecFirst k s = .next (enterFault .stream s1) := by
  rw [cbcDecFirst, withItem_item hf hi, bsize_of_seqNext hi, if_pos h]

/-- The first item is the IV, and the same `PULL` goes on in `CHAINING` (R134). -/
theorem pullWith_cbc_dec_iv (hp : s.phase = .start) (hm : s.mode = some .cbc) (hd : s.dir = some .dec)
    (hf : sourceFits s = true) (hi : seqNext s = (s1, .item c false)) (hc : c.length = s.bsize) :
    pullWith k s = pullWith k (setPhase .chaining (setCv (some c) s1)) := by
  have hfirst : ¬ (false = true ∨ c.length ≠ s.bsize) := not_or.2 ⟨Bool.false_ne_true, not_not.2 hc⟩
  have hm1 : (setPhase .chaining (setCv (some c) s1)).mode = some .cbc := by simp [← hm, ← seqNext_mode s, hi]
  have hd1 : (setPhase .chaining (setCv (some c) s1)).dir = some .dec := by simp [← hd, ← seqNext_dir s, hi]
  rw [pullWith_cbc_dec_start hp hm hd, cbcDecFirst, withItem_item hf hi, bsize_of_seqNext hi, if_neg hfirst,
    pullWith_cbc_dec rfl hm1 hd1]

end

/-- Settles O33: `START` takes no item; in `CHAINING` the item's tag and its length, or the length of the padded final chunk,
decide the case. -/
theorem pullCbcEncrypt : Obligations.PullCbcEncrypt := by
  refine ⟨fun s cv hp hm hd hcv => ?_, fun s s1 cv c last hp hm hd hf hcv hi => ?_⟩
  · exact (pullWith_cbc_enc_start hp hm hd).trans (cbcEncFirst_eq hcv)
  have hpull : exec .pull s = cbcEncChain Config.collab s := pullWith_cbc_enc hp hm hd
  simp only [hpull]
  refine ⟨?_, ?_, ?_⟩
  · rintro rfl hc
    simp only [cbcEncChain_full hf hcv hi hc, cbcEncBlock, respond, setCv, logCall]
  · rintro rfl hc
    exact cbcEncChain_short hf hcv hi hc
  · rintro rfl
    have hb : s1.bsize = s.bsize := bsize_of_seqNext hi
    rw [cbcEncChain_final hf hcv hi]
    split
    · next h1 => simp only [cbcEncFinal_one hb rfl h1, cbcEncBlock, respond, setPhase, setCv, logCall]
    · next h1 =>
      split
      · next h2 => simp only [cbcEncFinal_two hb rfl h1 h2 rfl, cbcEncBlock, respond, setPhase, setCv, logCall]
      · next h2 => exact cbcEncFinal_bad hb rfl h1 h2

/-- Settles O34: in `CHAINING` the item's length is tested first, then its tag; in `START` the first item is the IV,
unless it is the last one or short. -/
theorem pullCbcDecrypt : Obligations.PullCbcDecrypt := by
  refine ⟨fun s s1 cv c last hp hm hd hf hcv hi => ?_, fun s s1 c last hp hm hd hf hi => ⟨fun h => ?_, ?_⟩⟩
  · have hpull : exec .pull s = cbcDecChain Config.collab s := pullWith_cbc_dec hp hm hd
    simp only [hpull]
    refine ⟨cbcDecChain_short hf hi, ?_, ?_⟩
    · rintro hc rfl
      simp only [cbcDecChain_full hf hcv hi hc, cbcDecBlock, respond, setCv, logCall]
    · rintro hc rfl
      simp only [cbcDecChain_final hf hcv hi hc, cbcDecBlock, respond, setPhase, setCv, logCall]
  · exact (pullWith_cbc_dec_start hp hm hd).trans (cbcDecFirst_malformed hf hi h)
  · rintro rfl hc
    exact pullWith_cbc_dec_iv hp hm hd hf hi hc

/-! ### The blocks of a stream (R133, R134) -/

/-- The blocks `xs` encrypted in turn, from the chaining value `cv`. -/
def cbcCipher (k : Collab) (n : Nat) (cv : Bytes) (xs : List Bytes) : List Bytes :=
  carryMap (cbcEncBlock k n) (cbcEncBlock k n) cv xs

/-- The blocks `cs` decrypted in turn, from the chaining value `cv`: each block is the next one's chaining value. -/
def cbcPlain (k : Collab) (n : Nat) (cv : Bytes) (cs : List Bytes) : List Bytes :=
  carryMap (fun _ c => c) (cbcDecBlock k n) cv cs

section
variable {k : Collab} {n : Nat} {cv x : Bytes} {xs : List Bytes}

@[simp] theorem cbcCipher_nil (k : Collab) (n : Nat) (cv : Bytes) : cbcCipher k n cv [] = [] := rfl

@[simp] theorem cbcCipher_cons (k : Collab) (n : Nat) (cv x : Bytes) (xs : List Bytes) :
    cbcCipher k n cv (x :: xs) = cbcEncBlock k n cv x :: cbcCipher k n (cbcEncBlock k n cv x) xs := rfl

theorem cbcCipher_append (k : Collab) (n : Nat) (cv : Bytes) (xs ys : List Bytes) :
    cbcCipher k n cv (xs ++ ys) = cbcCipher k n cv xs ++ cbcCipher k n (xs.foldl (cbcEncBlock k n) cv) ys :=
  carryMap_append cv xs ys

@[simp] theorem length_cbcCipher (k : Collab) (n : Nat) (cv : Bytes) (xs : List Bytes) :
    (cbcCipher k n cv xs).length = xs.length :=
  length_carryMap cv xs

@[simp] theorem length_cbcPlain (k : Collab) (n : Nat) (cv : Bytes) (cs : List Bytes) :
    (cbcPlain k n cv cs).length = cs.length :=
  length_carryMap cv cs

theorem length_cbcEncBlock (k : Collab) (n : Nat) (cv x : Bytes) : (cbcEncBlock k n cv x).length = n :=
  encryptBlock_length ..

/-- Every ciphertext block is one block long. -/
theorem cbcCipher_blocks (k : Collab) (n : Nat) (cv : Bytes) (xs : List Bytes) :
    ∀ c ∈ cbcCipher k n cv xs, c.length = n :=
  forall_mem_carryMap (length_cbcEncBlock k n) cv xs

/-- The chaining value stays one block long. -/
theorem length_foldl_cbcEncBlock (hcv : cv.length = n) (xs : List Bytes) :
    (xs.foldl (cbcEncBlock k n) cv).length = n := by
  induction xs generalizing cv with
  | nil => exact hcv
  | cons x xs ih => exact ih (length_cbcEncBlock ..)

theorem cbcDecBlock_cbcEncBlock (h : Inverts k n) (hcv : cv.length = n) (hx : x.length = n) :
    cbcDecBlock k n cv (cbcEncBlock k n cv x) = x := by
  have hxor : (bxor x cv).length = n := by rw [bxor_length, hx, hcv, Nat.min_self]
  rw [cbcDecBlock, cbcEncBlock, decryptBlock_encryptBlock h hxor, bxor_bxor_cancel x cv (hx.trans hcv.symm).le]

/-- After a stream, decrypt holds the chaining value that encrypt holds. -/
theorem foldl_cbcCipher (k : Collab) (n : Nat) (cv : Bytes) (xs : List Bytes) :
    (cbcCipher k n cv xs).foldl (fun _ c => c) cv = xs.foldl (cbcEncBlock k n) cv := by
  induction xs generalizing cv with
  | nil => rfl
  | cons x xs ih => exact ih (cbcEncBlock k n cv x)

theorem cbcPlain_cbcCipher (h : Inverts k n) (hcv : cv.length = n) (hxs : ∀ x ∈ xs, x.length = n) :
    cbcPlain k n cv (cbcCipher k n cv xs) = xs := by
  induction xs generalizing cv with
  | nil => rfl
  | cons x xs ih =>
    rw [List.forall_mem_cons] at hxs
    obtain ⟨hx, hxs⟩ := hxs
    exact congrArg₂ List.cons (cbcDecBlock_cbcEncBlock h hcv hx) (ih (length_cbcEncBlock ..) hxs)

end

/-! ### The elements of a session (R133, R134) -/

/-- A session of CBC in direction `d` and phase `p` (R29), with block size `n` and `cv` in `CV`. -/
structure InCbc (n : Nat) (d : Dir) (p : Phase) (cv : Option Bytes) (s : State) : Prop where
  phase : s.phase = p
  mode : s.mode = some .cbc
  dir : s.dir = some d
  bsize : s.bsize = n
  cv : s.cv = cv

theorem InCbc.goesOn {n : Nat} {d : Dir} {p : Phase} {cv : Option Bytes} {s : State} (h : InCbc n d p cv s) (b : Bytes)
    (call : PortCall) (cv' : Bytes) :
    InCbc n d p (some cv') (respond (.out b) (setCv (some cv') (logCall call (seqNext s).1))) := by
  obtain ⟨hp, hm, hd, hb, -⟩ := h
  exact ⟨by simpa using hp, by simpa using hm, by simpa using hd, by simpa using hb, rfl⟩

/-- `Done` carries no verification outcome in CBC (R81). -/
theorem doneVerify_of_cbc {t : State} (hm : t.mode = some .cbc) : doneVerify t = none := by
  simp [doneVerify, hm]

section
variable {k : Collab} {n : Nat} {s : State} {cs ps : List Bytes} {cv c q : Bytes}

/-- The final chunk's element of output: its padded blocks, chained and joined (R133). -/
theorem cbcEncFinal_blocks (hb : 0 < n) (hs : s.bsize = n) (h : PadBlocks k n c ps q) (cv : Bytes) :
    ∃ l, cbcEncFinal k cv s c =
      .next (respond (.out (cbcCipher k n cv (ps ++ [q])).flatten)
        (setPhase .done (setCv none { s with calls := l }))) := by
  obtain ⟨hpad, hlen, hps, hq, -⟩ := h
  match ps, hlen with
  | [], _ =>
    have hfinal := cbcEncFinal_one (cv := cv) hs hpad hq
    rw [List.flatten_nil, List.nil_append, List.take_of_length_le hq.le] at hfinal
    rw [List.nil_append, cbcCipher_cons, cbcCipher_nil, List.flatten_singleton]
    exact ⟨_, hfinal⟩
  | [x], _ =>
    have hx : x.length = n := hps x List.mem_cons_self
    rw [List.flatten_singleton] at hpad
    have h2 : (x ++ q).length = 2 * n := by
      rw [List.length_append]
      omega
    have hfinal := cbcEncFinal_two (cv := cv) hs hpad (by omega) h2 rfl
    rw [List.take_left' hx, List.drop_left' hx] at hfinal
    rw [List.singleton_append, cbcCipher_cons, cbcCipher_cons, cbcCipher_nil, List.flatten_cons, List.flatten_singleton]
    exact ⟨_, hfinal⟩

/-- In `CHAINING` an encrypt session answers each block chained, and the final chunk padded and chained. -/
theorem cbcEncChain_yields (hb : 0 < n) (hs : InCbc n .enc .chaining (some cv) s)
    (hitems : Delivers s (cs.map (·, false) ++ [(c, true)])) (hcs : ∀ x ∈ cs, x.length = n) (h : PadBlocks k n c ps q) :
    Yields k s
      (cbcCipher k n cv cs ++ [(cbcCipher k n (cs.foldl (cbcEncBlock k n) cv) (ps ++ [q])).flatten]) none := by
  refine yields_of_carry (P := fun a => InCbc n .enc .chaining (some a))
    (last := fun a => (cbcCipher k n a (ps ++ [q])).flatten)
    (fun a u hu x hx hf hi => ?_) (fun a u hu hf hi => ?_) hs hitems
  · have hstep := cbcEncChain_full (k := k) hf hu.cv hi ((hcs x hx).trans hu.bsize.symm)
    rw [← pullWith_cbc_enc hu.phase hu.mode hu.dir, hu.bsize] at hstep
    exact ⟨_, emits_respond hstep (by simp), hu.goesOn .., by simp [sourceFields]⟩
  · obtain ⟨l, hfinal⟩ := cbcEncFinal_blocks hb ((seqNext_bsize u).trans hu.bsize) h a
    rw [← cbcEncChain_final hf hu.cv hi, ← pullWith_cbc_enc hu.phase hu.mode hu.dir] at hfinal
    exact ⟨_, emits_respond hfinal (by simp), rfl, doneVerify_of_cbc (by simpa using hu.mode)⟩

/-- In `START` an encrypt session answers its chaining value, the IV, and goes on from there. -/
theorem cbcEnc_yields (hb : 0 < n) (hs : InCbc n .enc .start (some cv) s)
    (hitems : Delivers s (cs.map (·, false) ++ [(c, true)])) (hcs : ∀ x ∈ cs, x.length = n) (h : PadBlocks k n c ps q) :
    Yields k s
      (cv :: (cbcCipher k n cv cs ++ [(cbcCipher k n (cs.foldl (cbcEncBlock k n) cv) (ps ++ [q])).flatten])) none := by
  obtain ⟨hp, hm, hd, hn, hcv⟩ := hs
  have hfirst := (pullWith_cbc_enc_start (k := k) hp hm hd).trans (cbcEncFirst_eq hcv)
  have hu : InCbc n .enc .chaining (some cv) (respond (.out cv) (setPhase .chaining s)) := ⟨rfl, hm, hd, hn, hcv⟩
  exact (cbcEncChain_yields hb hu (hitems.congr rfl) hcs h).cons (emits_respond hfirst rfl)

/-- In `CHAINING` a decrypt session answers each block decrypted, and the last one without its padding. -/
theorem cbcDecChain_yields (hs : InCbc n .dec .chaining (some cv) s)
    (hitems : Delivers s (cs.map (·, false) ++ [(c, true)])) (hcs : ∀ x ∈ cs, x.length = n) (hc : c.length = n) :
    Yields k s
      (cbcPlain k n cv cs ++ [k.padRemove n (cbcDecBlock k n (cs.foldl (fun _ c => c) cv) c)]) none := by
  refine yields_of_carry (P := fun a => InCbc n .dec .chaining (some a))
    (last := fun a => k.padRemove n (cbcDecBlock k n a c))
    (fun a u hu x hx hf hi => ?_) (fun a u hu hf hi => ?_) hs hitems
  · have hstep := cbcDecChain_full (k := k) hf hu.cv hi ((hcs x hx).trans hu.bsize.symm)
    rw [← pullWith_cbc_dec hu.phase hu.mode hu.dir, hu.bsize] at hstep
    exact ⟨_, emits_respond hstep (by simp), hu.goesOn .., by simp [sourceFields]⟩
  · have hfinal := cbcDecChain_final (k := k) hf hu.cv hi (hc.trans hu.bsize.symm)
    rw [← pullWith_cbc_dec hu.phase hu.mode hu.dir, hu.bsize] at hfinal
    exact ⟨_, emits_respond hfinal (by simp), rfl, doneVerify_of_cbc (by simpa using hu.mode)⟩

/-- In `START` a decrypt session takes the first item as its chaining value, the IV, and answers nothing for it. -/
theorem cbcDec_yields (hs : InCbc n .dec .start none s)
    (hitems : Delivers s ((cv, false) :: (cs.map (·, false) ++ [(c, true)]))) (hcv : cv.length = n)
    (hcs : ∀ x ∈ cs, x.length = n) (hc : c.length = n) :
    Yields k s
      (cbcPlain k n cv cs ++ [k.padRemove n (cbcDecBlock k n (cs.foldl (fun _ c => c) cv) c)]) none := by
  obtain ⟨hp, hm, hd, hn, -⟩ := hs
  obtain ⟨hf, hi, hrest⟩ := hitems.next
  have hu : InCbc n .dec .chaining (some cv) (setPhase .chaining (setCv (some cv) (seqNext s).1)) := by
    constructor <;> simp [hm, hd, hn]
  exact (cbcDecChain_yields hu (hrest.congr rfl) hcs hc).of_pullWith_eq
    (pullWith_cbc_dec_iv hp hm hd hf hi (hcv.trans hn.symm)) (by simp)

end

/-! ### The round trip -/

section
variable {k : Collab} {s : State}

/-- A CBC call over a content gives what its session yields of the content's frame, the IV of encrypt included. -/
theorem streamCall_cbc {d : Dir} {cv : Option Bytes} {content : Bytes} {elements : List Bytes} (hb : 0 < s.bsize)
    (hstart : ∀ src, startWith k .cbc d (linedUp src s) = cbcOpened d cv (linedUp src s))
    (hlen : elements.length ≤ (frame s.bsize content).length + 1)
    (h : ∀ u, InCbc s.bsize d .start cv u → Delivers u (frame s.bsize content) → Yields k u elements none) :
    streamCall k .cbc d (sourceOf s.bsize content) s = some ⟨elements.flatten, .done none⟩ := by
  have hopened := hstart (sourceOf s.bsize content)
  have hu : InCbc s.bsize d .start cv (cbcOpened d cv (linedUp (sourceOf s.bsize content) s)) :=
    ⟨rfl, rfl, rfl, rfl, rfl⟩
  have hitems : Delivers (cbcOpened d cv (linedUp (sourceOf s.bsize content) s)) (frame s.bsize content) :=
    delivers_frame hu.bsize hb rfl rfl
  exact streamCall_of_frame (hopened ▸ rfl) (hopened ▸ h _ hu hitems) hlen

/-- `ENCRYPT CBC` gives the IV, then every block of the content and of its padded final chunk, chained. -/
theorem streamCall_cbc_enc {iv content c q : Bytes} {cs ps : List Bytes} (hb : 0 < s.bsize) (hiv : s.iv = some iv)
    (hl : iv.length = s.bsize) (hframe : frame s.bsize content = cs.map (·, false) ++ [(c, true)])
    (hcs : ∀ x ∈ cs, x.length = s.bsize) (h : PadBlocks k s.bsize c ps q) :
    streamCall k .cbc .enc (sourceOf s.bsize content) s =
      some ⟨iv ++ (cbcCipher k s.bsize iv (cs ++ (ps ++ [q]))).flatten, .done none⟩ := by
  rw [streamCall_cbc hb (fun src => startWith_cbc_enc k hiv hl) (by rw [hframe]; simp) fun u hu hitems =>
    cbcEnc_yields hb hu (hframe ▸ hitems) hcs h]
  simp [cbcCipher_append]

/-- `DECRYPT CBC` of an IV and whole blocks gives each block decrypted, the last one without its padding. -/
theorem streamCall_cbc_dec {iv c : Bytes} {cs : List Bytes} (hb : 0 < s.bsize) (hl : iv.length = s.bsize)
    (hcs : ∀ x ∈ cs, x.length = s.bsize) (hc : c.length = s.bsize) :
    streamCall k .cbc .dec (sourceOf s.bsize (iv ++ (cs.flatten ++ c))) s =
      some ⟨(cbcPlain k s.bsize iv cs).flatten ++
        k.padRemove s.bsize (cbcDecBlock k s.bsize (cs.foldl (fun _ c => c) iv) c), .done none⟩ := by
  have hframe : frame s.bsize (iv ++ (cs.flatten ++ c)) = (iv, false) :: (cs.map (·, false) ++ [(c, true)]) := by
    have hblocks := frame_of_blocks hb (List.forall_mem_cons.2 ⟨hl, hcs⟩) hc
    rwa [List.flatten_cons, List.append_assoc] at hblocks
  rw [streamCall_cbc hb (fun src => startWith_cbc_dec k _) (by rw [hframe]; simp) fun u hu hitems =>
    cbcDec_yields hu (hframe ▸ hitems) hl hcs hc]
  simp

end

/-- Settles O58: encrypting makes one block of each block of the plaintext and of its padded final chunk, and those blocks
after the IV are the frame that decrypting gets; it takes the IV for its chaining value, undoes the blocks one by one, and
holds before the last one the chaining value that encrypt held. -/
theorem cbcRoundTrip : Obligations.CbcRoundTrip := by
  intro k s iv plain hb hiv hl hinv hpadding
  obtain ⟨cs, c, hframe, hplain, hc, hcs⟩ := frame_eq_blocks_and_final hb plain
  obtain ⟨ps, q, hpad⟩ := padBlocks_exist hpadding hc
  have hblocks : ∀ x ∈ cs ++ ps, x.length = s.bsize := List.forall_mem_append.2 ⟨hcs, hpad.front_block⟩
  have hcipher := cbcCipher_blocks k s.bsize iv (cs ++ ps)
  refine ⟨_, streamCall_cbc_enc hb hiv hl hframe hcs hpad, ?_⟩
  rw [← List.append_assoc, cbcCipher_append, cbcCipher_cons, cbcCipher_nil, List.flatten_append, List.flatten_singleton,
    streamCall_cbc_dec hb hl hcipher (length_cbcEncBlock ..), cbcPlain_cbcCipher hinv hl hblocks,
    foldl_cbcCipher, cbcDecBlock_cbcEncBlock hinv (length_foldl_cbcEncBlock hl _) hpad.last_block, List.flatten_append,
    List.append_assoc, hpad.removed, hplain]

end Sys2Proof.Machine
end

section
/-!
PROOFS. How contents of one length are framed (spec/41_block_sequencer.md R110): the frame's lengths and tags depend on the
content's length alone, so chunks that keep the lengths of a frame are cut where they were joined.
-/

namespace Sys2Proof.Machine

theorem length_flatten_congr {xs ys : List Bytes} (h : ys.map List.length = xs.map List.length) :
    ys.flatten.length = xs.flatten.length := by
  rw [List.length_flatten, h, ← List.length_flatten]

theorem map_length_chunksOf (b : Nat) {x y : Bytes} (h : x.length = y.length) :
    (chunksOf b x).map List.length = (chunksOf b y).map List.length := by
  have hchunk (i : Nat) : (chunkAt b x i).length = (chunkAt b y i).length := by rw [length_chunkAt, length_chunkAt, h]
  simp only [chunksOf, h, List.map_map]
  exact List.map_congr_left fun i _ => hchunk i

theorem chunksOf_flatten_of_lengths {b : Nat} (hb : 0 < b) {content : Bytes} {ys : List Bytes}
    (h : ys.map List.length = (chunksOf b content).map List.length) : chunksOf b ys.flatten = ys := by
  have hlen : ys.flatten.length = content.length := by rw [length_flatten_congr h, flatten_chunksOf hb]
  exact List.eq_iff_flatten_eq.2 ⟨flatten_chunksOf hb _, (map_length_chunksOf b hlen).trans h.symm⟩

/-- Chunks as long as those of a content's frame are the frame of what they make together. -/
theorem frame_flatten_of_lengths {b : Nat} (hb : 0 < b) {content : Bytes} {ys : List Bytes}
    (h : ys.map List.length = ((frame b content).map Prod.fst).map List.length) : frame b ys.flatten = tagFinal ys := by
  by_cases hc : content = []
  · rw [hc, frame_nil] at h
    obtain ⟨y, rfl, hy⟩ := List.map_eq_singleton_iff.1 h
    rw [List.eq_nil_of_length_eq_zero hy]
    exact frame_nil b
  · rw [frame_of_ne_nil hc, map_fst_tagFinal] at h
    have hlen : ys.flatten.length = content.length := by rw [length_flatten_congr h, flatten_chunksOf hb]
    have hne : ys.flatten ≠ [] := List.ne_nil_of_length_pos (hlen ▸ List.length_pos_of_ne_nil hc)
    rw [frame_of_ne_nil hne, chunksOf_flatten_of_lengths hb h]

theorem frame_eq_tagFinal {b : Nat} (hb : 0 < b) (content : Bytes) :
    frame b content = tagFinal ((frame b content).map Prod.fst) := by
  obtain ⟨hflat, -⟩ := frameCutsTheContent b content hb
  rw [← frame_flatten_of_lengths hb rfl, hflat]

theorem frame_ne_nil {b : Nat} (hb : 0 < b) (content : Bytes) : frame b content ≠ [] := by
  obtain ⟨-, ⟨items, c, hframe, -⟩, -⟩ := frameCutsTheContent b content hb
  exact hframe ▸ List.append_ne_nil_of_right_ne_nil items (List.cons_ne_nil _ _)

theorem length_le_of_mem_frame {b : Nat} (hb : 0 < b) (content : Bytes) :
    ∀ x ∈ (frame b content).map Prod.fst, x.length ≤ b := by
  obtain ⟨cs, c, hframe, -, hc, hcs⟩ := frame_eq_blocks_and_final hb content
  intro x hx
  simp only [hframe, List.map_append, List.map_map, List.mem_append, List.map_singleton, List.mem_singleton] at hx
  obtain hx | rfl := hx
  · exact (hcs x (by simpa using hx)).le
  · exact hc

end Sys2Proof.Machine
end

section
/-!
PROOFS. CTR mode (spec/44_ctr.md R140 to R147): the two `START`s, the `PULL` step, the direction that no step reads, the port
calls (shared with AEAD, spec/45_aead.md R150), and the round trip of whole streams.
-/

namespace Sys2Proof.Machine

/-! ### `START` (R141, R142, R171) -/

/-- A CTR session just opened in direction `d` (R141, R142). -/
def ctrOpened (d : Dir) (s : State) : State :=
  respond .ok (setCtr 0 (setPhase .chaining (setKind .ctr d (clearSession s))))

/-- Both directions make the same checks (R141, R142). -/
theorem startRule_ctr (k : Collab) (d : Dir) (s : State) :
    startRule k .ctr d s = (ctrChecks s).map fun _ => setCtr 0 (setPhase .chaining (setKind .ctr d s)) := by
  cases d <;> rfl

theorem startWith_ctr (k : Collab) (d : Dir) {s : State} {nonce : Bytes} {cw : Nat} (hn : s.nonce = some nonce)
    (hw : s.cw = some cw) (hl : nonce.length + cw = s.bsize) : startWith k .ctr d s = ctrOpened d s := by
  have hrule : startRule k .ctr d (clearSession s) =
      .ok (setCtr 0 (setPhase .chaining (setKind .ctr d (clearSession s)))) := by
    obtain ⟨-, -, -, -, -, h⟩ | ⟨h, -⟩ := ctrChecks_cases (clearSession s)
    · rw [startRule_ctr, h]
      rfl
    · exact absurd hl (h nonce cw hn hw)
  simp only [startWith, startSession, hrule, ctrOpened]

theorem startWith_ctr_refused (k : Collab) (d : Dir) {s : State}
    (h : ∀ nonce cw, s.nonce = some nonce → s.cw = some cw → nonce.length + cw ≠ s.bsize) :
    startWith k .ctr d s = enterFault .configuration (setKind .ctr d (clearSession s)) := by
  have hrule : startRule k .ctr d (clearSession s) = .error .configuration := by
    obtain ⟨nonce, cw, hn, hw, hl, -⟩ | ⟨-, h⟩ := ctrChecks_cases (clearSession s)
    · exact absurd hl (h nonce cw hn hw)
    · rw [startRule_ctr, h]
      rfl
  simp only [startWith, startSession, hrule]

/-- Settles O25: the checks that both rules make, on the state that the common part of `START` leaves, decide the case. -/
theorem startCtrZeroesTheCounter : Obligations.StartCtrZeroesTheCounter := by
  refine ⟨fun s nonce cw hn hw hl => ?_, fun s h => ?_⟩
  · have hopened (d : Dir) := startWith_ctr Config.collab d hn hw hl
    exact ⟨congrArg Host.Outcome.next (hopened .enc), congrArg Host.Outcome.next (hopened .dec)⟩
  · have hrefused (d : Dir) := startWith_ctr_refused Config.collab d h
    exact ⟨congrArg Host.Outcome.next (hrefused .enc), congrArg Host.Outcome.next (hrefused .dec)⟩

/-! ### The step (R143, R144, R146) -/

/-- The chunk `x` and the leading bytes of the keystream block that these registers make, added (R143, R144). -/
def ctrChunk (k : Collab) (n : Nat) (r : CtrRegs) (x : Bytes) : Bytes :=
  bxor x ((keystream k n r.nonce r.cw r.ctr).take x.length)

theorem counterSpent_iff {cw c : Nat} : counterSpent cw c = true ↔ 2 ^ (8 * cw) ≤ c := decide_eq_true_iff

section
variable {k : Collab} {s s1 : State} {c : Bytes} {last : Bool} {r : CtrRegs}

theorem sessionPull_ctr (hm : s.mode = some .ctr) (hd : s.dir ≠ none) : sessionPull k s = ctrPull k s := by
  obtain ⟨d, hd⟩ := Option.ne_none_iff_exists'.1 hd
  simp only [sessionPull, hm, hd]

theorem pullWith_ctr (hp : s.phase = .chaining) (hm : s.mode = some .ctr) (hd : s.dir ≠ none) :
    pullWith k s = ctrStep k s := by
  simp only [pullWith, hp, sessionPull_ctr hm hd, ctrPull, ne_eq, not_true, if_false]

theorem ctrRegs_of_seqNext {x : SeqResult} (hi : seqNext s = (s1, x)) : ctrRegs s1 = ctrRegs s := by
  obtain rfl : (seqNext s).1 = s1 := congrArg Prod.fst hi
  simp only [ctrRegs, seqNext_nonce, seqNext_cw, seqNext_ctr]

theorem phase_of_seqNext {x : SeqResult} (hi : seqNext s = (s1, x)) : s1.phase = s.phase := by
  rw [← seqNext_phase s, hi]

theorem ctrStep_failed (hf : sourceFits s = true) (hi : seqNext s = (s1, .failed)) :
    ctrStep k s = .next (enterFault .stream s1) :=
  withItem_failed hf hi

/-- A CTR step that gets an item, with the registers it reads. -/
theorem ctrStep_item (hf : sourceFits s = true) (hr : ctrRegs s = .ok r) (hi : seqNext s = (s1, .item c last)) :
    ctrStep k s =
      if counterSpent r.cw r.ctr then .next (enterFault .range s1)
      else .next (respond (.out (ctrChunk k s.bsize r c))
        (setPhase (if last then .done else s.phase)
          (setCtr (r.ctr + 1) (logCall (.encrypt (counterBlock r.nonce r.cw r.ctr)) s1)))) := by
  rw [ctrStep, withItem_item hf hi, ctrRegs_of_seqNext hi, hr, withRegs_ok, bsize_of_seqNext hi, phase_of_seqNext hi]
  rfl

theorem ctrStep_spent (hf : sourceFits s = true) (hr : ctrRegs s = .ok r) (hi : seqNext s = (s1, .item c last))
    (hc : 2 ^ (8 * r.cw) ≤ r.ctr) : ctrStep k s = .next (enterFault .range s1) := by
  rw [ctrStep_item hf hr hi, if_pos (counterSpent_iff.2 hc)]

theorem ctrStep_out (hf : sourceFits s = true) (hr : ctrRegs s = .ok r) (hi : seqNext s = (s1, .item c last))
    (hc : r.ctr < 2 ^ (8 * r.cw)) :
    ctrStep k s =
      .next (respond (.out (ctrChunk k s.bsize r c))
        (setPhase (if last then .done else s.phase)
          (setCtr (r.ctr + 1) (logCall (.encrypt (counterBlock r.nonce r.cw r.ctr)) s1)))) := by
  rw [ctrStep_item hf hr hi, if_neg (counterSpent_iff.not.2 (Nat.not_le.2 hc))]

end

/-- Settles O35: the counter's bound decides the case, in either direction. -/
theorem pullCtr : Obligations.PullCtr := by
  intro s s1 d nonce c cw n last hp hm hd hf hn hw hc hi
  have hpull : exec .pull s = ctrStep Config.collab s := pullWith_ctr hp hm (by simp [hd])
  have hr : ctrRegs s = .ok ⟨nonce, cw, n⟩ := ctrRegs_eq_ok.2 ⟨hn, hw, hc⟩
  refine ⟨fun hlt => ?_, fun hle => hpull.trans (ctrStep_spent hf hr hi hle)⟩
  rw [hpull, ctrStep_out hf hr hi hlt, hp]
  rfl

/-! ### The direction (R142) -/

/-- The state with the direction `d` recorded. -/
def withDir (d : Dir) (s : State) : State := { s with dir := some d }

section
variable {k : Collab} {s t : State}

theorem seqNextPrimed_withDir (d : Dir) (la : Bytes) (s : State) :
    seqNextPrimed la (withDir d s) = (withDir d (seqNextPrimed la s).1, (seqNextPrimed la s).2) := by
  have ha : srcAnswer (withDir d s) = srcAnswer s := rfl
  simp only [seqNextPrimed, ha]
  cases srcAnswer s <;> rfl

theorem seqNext_withDir (d : Dir) (s : State) : seqNext (withDir d s) = (withDir d (seqNext s).1, (seqNext s).2) := by
  have ha : srcAnswer (withDir d s) = srcAnswer s := rfl
  have hs : (withDir d s).seq = s.seq := rfl
  cases hq : s.seq with
  | unprimed =>
    simp only [seqNext, hs, hq, ha]
    cases srcAnswer s with
    | chunk c => exact seqNextPrimed_withDir d c (setSeq (.primed c) (afterSrcNext s))
    | eof | failure => rfl
  | primed la => rw [seqNext_of_primed hq, seqNext_of_primed (hs.trans hq), seqNextPrimed_withDir]
  | exhausted => rw [seqNext_of_exhausted hq, seqNext_of_exhausted (hs.trans hq)]
  | failed => rw [seqNext_of_failed hq, seqNext_of_failed (hs.trans hq)]

theorem ctrStep_withDir (d : Dir) (e : ctrStep k s = .next t) : ctrStep k (withDir d s) = .next (withDir d t) := by
  have hnext {x : SeqResult} (hi : (seqNext s).2 = x) : seqNext (withDir d s) = (withDir d (seqNext s).1, x) :=
    hi ▸ seqNext_withDir d s
  obtain ⟨hf, hcase⟩ := ctrStep_next e
  have hf : sourceFits (withDir d s) = true := hf
  obtain ⟨hi, rfl⟩ | ⟨c, last, r, hi, hr, hc, rfl⟩ | ⟨c, last, r, hi, hr, hc, rfl⟩ := hcase
  · exact ctrStep_failed hf (hnext hi)
  · exact ctrStep_spent (s := withDir d s) hf hr (hnext hi) hc
  · exact ctrStep_out (s := withDir d s) hf hr (hnext hi) hc

theorem pullWith_idle (hp : s.phase = .idle) : pullWith k s = .next (reject s) := by
  simp only [pullWith, hp]

theorem pullWith_done (hp : s.phase = .done) : pullWith k s = .next (respond (.done (doneVerify s)) s) := by
  simp only [pullWith, hp]

theorem pullWith_faulted {x : FaultClass} (hp : s.phase = .faulted) (hx : s.fault = some x) :
    pullWith k s = .next (respond (.fault x) s) := by
  simp only [pullWith, hp, hx]

/-- `Done` carries no verification outcome in CTR (R81). -/
theorem doneVerify_of_ctr (hm : s.mode = some .ctr) : doneVerify s = none := by
  simp [doneVerify, hm]

end

/-- Settles O49: of the ways a `PULL` can answer in a CTR session, the step and `Done` could read the direction; the step does
not, and `Done` has nothing to say of it. -/
theorem ctrDirectionIsNotRead : Obligations.CtrDirectionIsNotRead := by
  intro s t d hm hd e
  change pullWith Config.collab (withDir d s) = .next (withDir d t)
  cases pull_next e with
  | idle hp e =>
    subst e
    exact pullWith_idle (s := withDir d s) hp
  | done hp e =>
    have hdone := pullWith_done (k := Config.collab) (s := withDir d s) hp
    rw [doneVerify_of_ctr (s := withDir d s) hm, ← doneVerify_of_ctr hm] at hdone
    subst e
    exact hdone
  | flt x hp hx e =>
    subst e
    exact pullWith_faulted (s := withDir d s) hp hx
  | ctr _ hp _ _ e => exact (pullWith_ctr (s := withDir d s) hp hm (Option.some_ne_none d)).trans (ctrStep_withDir d e)
  | ecbE _ hm' | ecbD _ hm' | cbcE0 _ hm' | cbcE _ hm' | cbcD0 _ hm' | cbcD _ hm' | aeE0 _ hm' | aeE _ hm' | aeT _ hm'
  | aeD0 _ hm' | aeD _ hm' => cases hm.symm.trans hm'

/-! ### The port calls of CTR and AEAD (R140, R150) -/

/-- The log `l` has grown to `l'` by `SrcNext()` and `E` calls only (newest first). -/
def OnlyECalls (l l' : List PortCall) : Prop :=
  ∃ new, l' = new ++ l ∧ ∀ c ∈ new, (∃ a, c = .srcNext a) ∨ (∃ b, c = .encrypt b)

section
variable {k : Collab} {s t : State} {l l' : List PortCall}

theorem OnlyECalls.refl (l : List PortCall) : OnlyECalls l l := ⟨[], rfl, nofun⟩

theorem OnlyECalls.cons {c : PortCall} (h : OnlyECalls l l') (hc : (∃ a, c = .srcNext a) ∨ (∃ b, c = .encrypt b)) :
    OnlyECalls l (c :: l') := by
  obtain ⟨new, rfl, hnew⟩ := h
  exact ⟨c :: new, rfl, List.forall_mem_cons.2 ⟨hc, hnew⟩⟩

theorem OnlyECalls.srcNext (h : OnlyECalls l l') (a : SrcAnswer) : OnlyECalls l (.srcNext a :: l') :=
  h.cons (.inl ⟨a, rfl⟩)

theorem OnlyECalls.encrypt (h : OnlyECalls l l') (b : Bytes) : OnlyECalls l (.encrypt b :: l') :=
  h.cons (.inr ⟨b, rfl⟩)

theorem onlyECalls_seqNextPrimed (h : OnlyECalls l s.calls) (la : Bytes) :
    OnlyECalls l (seqNextPrimed la s).1.calls := by
  unfold seqNextPrimed
  split <;> exact h.srcNext _

theorem onlyECalls_seqNext (h : OnlyECalls l s.calls) : OnlyECalls l (seqNext s).1.calls := by
  cases hq : s.seq with
  | unprimed =>
    simp only [seqNext, hq]
    split
    · exact h.srcNext _
    · exact h.srcNext _
    · exact onlyECalls_seqNextPrimed (h.srcNext _) _
  | primed la => exact seqNext_of_primed hq ▸ onlyECalls_seqNextPrimed h la
  | exhausted => exact seqNext_of_exhausted hq ▸ h
  | failed => exact seqNext_of_failed hq ▸ h

theorem ctrStep_onlyECalls (h : OnlyECalls l s.calls) (e : ctrStep k s = .next t) : OnlyECalls l t.calls := by
  have hseq := onlyECalls_seqNext h
  obtain ⟨-, ⟨-, rfl⟩ | ⟨c, last, r, -, -, -, rfl⟩ | ⟨c, last, r, -, -, -, rfl⟩⟩ := ctrStep_next e
  · exact hseq
  · exact hseq
  · exact hseq.encrypt _

theorem aeadEncFirst_onlyECalls (h : OnlyECalls l s.calls) (e : aeadEncFirst s = .next t) : OnlyECalls l t.calls := by
  obtain ⟨header, -, rfl⟩ := aeadEncFirst_next e
  exact h

theorem aeadEncData_onlyECalls (h : OnlyECalls l s.calls) (e : aeadEncData k s = .next t) : OnlyECalls l t.calls := by
  have hseq := onlyECalls_seqNext h
  obtain ⟨-, ⟨-, rfl⟩ | ⟨c, last, -, -, rfl⟩ | ⟨c, last, r, -, -, -, -, rfl⟩ |
    ⟨c, last, r, ct, -, -, -, -, -, ⟨f, -, rfl⟩ | ⟨acc, -, rfl⟩⟩⟩ := aeadEncData_next e
  · exact hseq
  · exact hseq
  · exact hseq
  · exact hseq.encrypt _
  · exact hseq.encrypt _

theorem aeadEncTag_onlyECalls (h : OnlyECalls l s.calls) (e : aeadEncTag s = .next t) : OnlyECalls l t.calls := by
  obtain ⟨r, -, ⟨f, -, rfl⟩ | ⟨acc, tag, -, rfl⟩⟩ := aeadEncTag_next e
  · exact h
  · exact h

theorem aeadDecData_onlyECalls {c : Bytes} (h : OnlyECalls l s.calls) (e : aeadDecData k s c = .next t) :
    OnlyECalls l t.calls := by
  obtain ⟨r, -, ⟨f, -, rfl⟩ | ⟨-, rfl⟩ | ⟨acc, -, -, rfl⟩⟩ := aeadDecData_next e
  · exact h
  · exact h
  · exact h.encrypt _

theorem aeadDecTag_onlyECalls {c : Bytes} (h : OnlyECalls l s.calls) (e : aeadDecTag s c = .next t) :
    OnlyECalls l t.calls := by
  obtain ⟨r, -, ⟨f, -, rfl⟩ | ⟨acc, tag, v, -, -, rfl⟩⟩ := aeadDecTag_next e
  · exact h
  · exact h

theorem aeadDecChain_onlyECalls (h : OnlyECalls l s.calls) (e : aeadDecChain k s = .next t) : OnlyECalls l t.calls := by
  have hseq := onlyECalls_seqNext h
  obtain ⟨-, ⟨-, rfl⟩ | ⟨c, last, -, -, rfl⟩ | ⟨c, -, -, e⟩ | ⟨c, -, -, e⟩⟩ := aeadDecChain_next e
  · exact hseq
  · exact hseq
  · exact aeadDecTag_onlyECalls hseq e
  · exact aeadDecData_onlyECalls hseq e

theorem aeadDecFirst_onlyECalls (h : OnlyECalls l s.calls) (e : aeadDecFirst k s = .next t) : OnlyECalls l t.calls := by
  have hseq := onlyECalls_seqNext h
  obtain ⟨-, ⟨-, rfl⟩ | ⟨c, -, rfl⟩ | ⟨c, -, -, rfl⟩ | ⟨c, hk, -, -, -, ⟨f, -, rfl⟩ | ⟨acc, -, e⟩⟩⟩ :=
    aeadDecFirst_next e
  · exact hseq
  · exact hseq
  · exact hseq
  · exact hseq
  · have hseeded : OnlyECalls l (setPhase .chaining (setAcc acc (seqNext s).1)).calls := hseq
    exact aeadDecChain_onlyECalls hseeded e

end

/-- Settles O48: each step takes its item by `SrcNext()` calls and gets its keystream block by an `E` call; the first AEAD
decrypt step goes on to the next one within the same `PULL`. -/
theorem ctrAndAeadCallOnlyE : Obligations.CtrAndAeadCallOnlyE := by
  intro s t hm e
  have h := OnlyECalls.refl s.calls
  change OnlyECalls s.calls t.calls
  cases pull_next e with
  | idle _ e | done _ e | flt _ _ _ e => exact e ▸ h
  | ctr _ _ _ _ e => exact ctrStep_onlyECalls h e
  | aeE0 _ _ _ e => exact aeadEncFirst_onlyECalls h e
  | aeE _ _ _ e => exact aeadEncData_onlyECalls h e
  | aeT _ _ _ e => exact aeadEncTag_onlyECalls h e
  | aeD0 _ _ _ e => exact aeadDecFirst_onlyECalls h e
  | aeD _ _ _ e => exact aeadDecChain_onlyECalls h e
  | ecbE _ hm' | ecbD _ hm' | cbcE0 _ hm' | cbcE _ hm' | cbcD0 _ hm' | cbcD _ hm' => simp [hm'] at hm

/-! ### The chunks of a stream (R144) -/

section
variable {k : Collab} {n : Nat} {r : CtrRegs} {x : Bytes} {xs : List Bytes}

theorem length_ctrChunk (hx : x.length ≤ n) : (ctrChunk k n r x).length = x.length := by
  rw [ctrChunk, bxor_length, List.length_take, keystream, encryptBlock_length, Nat.min_eq_left hx, Nat.min_self]

/-- The same keystream bytes, added twice, give the chunk back. -/
theorem ctrChunk_ctrChunk (hx : x.length ≤ n) : ctrChunk k n r (ctrChunk k n r x) = x := by
  have hks : x.length ≤ ((keystream k n r.nonce r.cw r.ctr).take x.length).length := by
    rw [List.length_take, keystream, encryptBlock_length]
    exact Nat.le_min.2 ⟨Nat.le_refl _, hx⟩
  rw [ctrChunk, length_ctrChunk hx, ctrChunk, bxor_bxor_cancel x _ hks]

/-- The registers that the next keystream block is made from (R144). -/
def CtrRegs.next (r : CtrRegs) : CtrRegs := { r with ctr := r.ctr + 1 }

/-- The chunks `xs` in turn, the first one with the registers `r`. -/
def ctrChunks (k : Collab) (n : Nat) (r : CtrRegs) (xs : List Bytes) : List Bytes :=
  carryMap (fun r _ => r.next) (ctrChunk k n) r xs

theorem length_ctrChunks (k : Collab) (n : Nat) (r : CtrRegs) (xs : List Bytes) :
    (ctrChunks k n r xs).length = xs.length :=
  length_carryMap r xs

theorem map_length_ctrChunks (hxs : ∀ x ∈ xs, x.length ≤ n) :
    (ctrChunks k n r xs).map List.length = xs.map List.length := by
  induction xs generalizing r with
  | nil => rfl
  | cons x xs ih =>
    rw [List.forall_mem_cons] at hxs
    obtain ⟨hx, hxs⟩ := hxs
    exact congrArg₂ List.cons (length_ctrChunk hx) (ih hxs)

theorem ctrChunks_ctrChunks (hxs : ∀ x ∈ xs, x.length ≤ n) : ctrChunks k n r (ctrChunks k n r xs) = xs := by
  induction xs generalizing r with
  | nil => rfl
  | cons x xs ih =>
    rw [List.forall_mem_cons] at hxs
    obtain ⟨hx, hxs⟩ := hxs
    exact congrArg₂ List.cons (ctrChunk_ctrChunk hx) (ih hxs)

end

/-! ### The elements of a session (R144) -/

/-- A CTR session of either direction in phase `p`, with block size `n` and the registers `r`. -/
structure InCtr (n : Nat) (p : Phase) (r : CtrRegs) (s : State) : Prop where
  phase : s.phase = p
  mode : s.mode = some .ctr
  dir : s.dir ≠ none
  bsize : s.bsize = n
  regs : ctrRegs s = .ok r

section
variable {k : Collab} {n : Nat} {r : CtrRegs} {s : State} {xs : List Bytes}

/-- A step that gets an item which the counter can number answers its chunk, and the counter goes up; the last item ends the
session (R144). -/
theorem InCtr.step {x : Bytes} {last : Bool} (h : InCtr n .chaining r s) (hc : r.ctr < 2 ^ (8 * r.cw))
    (hf : sourceFits s = true) (hi : seqNext s = ((seqNext s).1, .item x last)) :
    ∃ t, Emits k s (ctrChunk k n r x) t ∧ InCtr n (if last then .done else .chaining) r.next t ∧
      sourceFields t = sourceFields (seqNext s).1 := by
  obtain ⟨hp, hm, hd, hb, hr⟩ := h
  have hstep := ctrStep_out (k := k) hf hr hi hc
  rw [← pullWith_ctr hp hm hd, hb, hp] at hstep
  rw [ctrRegs_eq_ok] at hr
  obtain ⟨hn, hw, -⟩ := hr
  refine ⟨_, emits_respond hstep (by simp), ⟨rfl, by simpa using hm, by simpa using hd, by simpa using hb, ?_⟩,
    by simp [sourceFields]⟩
  exact ctrRegs_eq_ok.2 ⟨by simpa [CtrRegs.next] using hn, by simpa [CtrRegs.next] using hw, rfl⟩

/-- A session answers the chunks of its items in turn, when the counter can number them all (R144, R146). -/
theorem ctr_yields (hs : InCtr n .chaining r s) (hne : xs ≠ []) (hitems : Delivers s (tagFinal xs))
    (hc : r.ctr + xs.length ≤ 2 ^ (8 * r.cw)) : Yields k s (ctrChunks k n r xs) none := by
  induction xs using tagFinal.induct generalizing r s with
  | case1 => exact absurd rfl hne
  | case2 x =>
    obtain ⟨hf, hi, -⟩ := hitems.next
    obtain ⟨t, ht, hu, -⟩ := hs.step (k := k) hc hf hi
    have hend := yields_of_done k hu.phase
    rw [doneVerify_of_ctr hu.mode] at hend
    exact hend.cons ht
  | case3 x y xs ih =>
    obtain ⟨hf, hi, hrest⟩ := hitems.next
    rw [List.length_cons] at hc
    obtain ⟨t, ht, hu, hfields⟩ := hs.step (k := k) (by omega) hf hi
    have hbound : r.next.ctr + (y :: xs).length ≤ 2 ^ (8 * r.next.cw) := by
      simp only [CtrRegs.next]
      omega
    exact (ih hu (List.cons_ne_nil y xs) (hrest.congr hfields) hbound).cons ht

end

/-! ### The round trip -/

theorem inCtr_ctrOpened (d : Dir) {s : State} {nonce : Bytes} {cw : Nat} (hn : s.nonce = some nonce) (hw : s.cw = some cw) :
    InCtr s.bsize .chaining ⟨nonce, cw, 0⟩ (ctrOpened d s) :=
  ⟨rfl, rfl, Option.some_ne_none d, rfl, ctrRegs_eq_ok.2 ⟨hn, hw, rfl⟩⟩

/-- A CTR call of either direction gives the chunks of the content's frame in turn, from counter 0. -/
theorem streamCall_ctr (k : Collab) (d : Dir) {s : State} {nonce content : Bytes} {cw : Nat} {xs : List Bytes}
    (hb : 0 < s.bsize) (hn : s.nonce = some nonce) (hw : s.cw = some cw) (hl : nonce.length + cw = s.bsize)
    (hframe : frame s.bsize content = tagFinal xs) (hxs : xs.length ≤ 2 ^ (8 * cw)) :
    streamCall k .ctr d (sourceOf s.bsize content) s =
      some ⟨(ctrChunks k s.bsize ⟨nonce, cw, 0⟩ xs).flatten, .done none⟩ := by
  have hopened : startWith k .ctr d (linedUp (sourceOf s.bsize content) s) =
      ctrOpened d (linedUp (sourceOf s.bsize content) s) := startWith_ctr k d hn hw hl
  have hu := inCtr_ctrOpened d (s := linedUp (sourceOf s.bsize content) s) hn hw
  have hitems : Delivers (ctrOpened d (linedUp (sourceOf s.bsize content) s)) (frame s.bsize content) :=
    delivers_frame hu.bsize hb rfl rfl
  have hne : xs ≠ [] := by
    rintro rfl
    exact frame_ne_nil hb content hframe
  have hyields := ctr_yields (k := k) hu hne (hframe ▸ hitems) (by simpa using hxs)
  refine streamCall_of_frame (hopened ▸ rfl) (hopened ▸ hyields) ?_
  rw [hframe, length_tagFinal, length_ctrChunks]
  exact Nat.le_succ _

/-- Settles O59: encrypting keeps the length of each chunk of the plaintext, so its chunks are the frame that decrypting gets,
and decrypting adds the same keystream bytes to each of them. -/
theorem ctrRoundTrip : Obligations.CtrRoundTrip := by
  intro k s nonce plain cw hb hn hw hl hcount
  obtain ⟨hplain, -⟩ := frameCutsTheContent s.bsize plain hb
  have hxs := length_le_of_mem_frame hb plain
  have hframe := frame_eq_tagFinal hb plain
  rw [← List.length_map (f := Prod.fst)] at hcount
  generalize hcut : (frame s.bsize plain).map Prod.fst = xs at hplain hxs hframe hcount
  have hlengths := map_length_ctrChunks (k := k) (r := ⟨nonce, cw, 0⟩) hxs
  have hcipher : frame s.bsize (ctrChunks k s.bsize ⟨nonce, cw, 0⟩ xs).flatten = tagFinal _ :=
    frame_flatten_of_lengths hb (hlengths.trans (congrArg (List.map List.length) hcut.symm))
  refine ⟨_, streamCall_ctr k .enc hb hn hw hl hframe hcount, ?_, ?_⟩
  · rw [length_flatten_congr hlengths, hplain]
  · rw [streamCall_ctr k .dec hb hn hw hl hcipher ((length_ctrChunks ..).trans_le hcount), ctrChunks_ctrChunks hxs, hplain]

end Sys2Proof.Machine
end

section
/-!
PROOFS. AEAD (spec/45_aead.md R150 to R166): the length element, the two `START`s, and the `PULL` steps.
-/

namespace Sys2Proof.Machine

/-! ### The field operations of a step (R150, R158, R166) -/

theorem accumulate_eq_feMultOp {n v : Nat} {acc h : Elem} (popt : Option ExpSet) (ha : acc.n = n) :
    accumulate popt acc ⟨n, v⟩ h = feMultOp ⟨n, acc.v ^^^ v⟩ h popt := by
  simp only [accumulate, feXorOp_ok (b := ⟨n, v⟩) ha, ha, bind, Except.bind]

theorem lengthInt_eq_or (b hl bc : Nat) : lengthInt (8 * b) hl bc = (hl <<< (4 * b)) ||| bc := by
  rw [lengthInt, show 8 * b / 2 = 4 * b by omega]

/-- The accumulator takes a block: the product that it then holds (R150). -/
theorem accumulate_block_eq {s : State} {r : AeadRegs} {b : Bytes} (hs : AeadShared s) (ha : AccOk s)
    (hr : aeadRegs s = .ok r) (hb : b.length = s.bsize) :
    ∃ x, feMultOp ⟨8 * s.bsize, r.acc.v ^^^ intOf b⟩ r.h s.poly = .ok x ∧
      accumulate s.poly r.acc (elemOfBlock s.bsize b) r.h = .ok x := by
  obtain ⟨⟨hn, -⟩, -⟩ := aeadRegs_bounds hs ha hr
  obtain ⟨x, hx, -⟩ := accumulate_block hs ha hr hb
  exact ⟨x, (accumulate_eq_feMultOp s.poly hn).symm.trans hx, hx⟩

/-- The finalisation in full: the product with the length element, and the tag element (R158). -/
theorem finalise_eq {s : State} {r : AeadRegs} (hs : AeadShared s) (ha : AccOk s) (hr : aeadRegs s = .ok r) :
    ∃ x, feMultOp ⟨8 * s.bsize, r.acc.v ^^^ lengthInt (8 * s.bsize) r.hlen r.blkcnt⟩ r.h s.poly = .ok x ∧
      finalise s.poly (8 * s.bsize) r = .ok (x, ⟨8 * s.bsize, x.v ^^^ r.ek.v⟩) := by
  obtain ⟨⟨an, av⟩, ⟨hn, -⟩, ⟨en, -⟩, hl, hb⟩ := aeadRegs_bounds hs ha hr
  obtain ⟨-, -, -, ⟨p, hp⟩, -⟩ := hs
  obtain ⟨x, hmult, hfinal, -⟩ := finalise_exists hp an av hn en hl hb
  exact ⟨x, hmult, hfinal⟩

/-- What every phase of an AEAD session holds, whichever it is. -/
theorem aeadShared_of_kindActive {d : Dir} {s : State} (h : KindActive .aead d s) : AeadShared s := by
  obtain ⟨hcv, hk, hd, hc, -⟩ := h
  exact ⟨hcv, hk, hd, hc⟩

/-- The halves of the length element fit, whatever `ACC` holds (R166): as they do with the subkey in `ACC`. -/
theorem lengthHalves_lt {s : State} {hl bc : Nat} (hs : AeadShared s) (hhl : s.hlen = some hl) (hbc : s.blkcnt = some bc) :
    hl < 2 ^ (4 * s.bsize) ∧ bc < 2 ^ (4 * s.bsize) := by
  obtain ⟨-, -, ⟨⟨h, -, -, -, fh, -⟩, -⟩, -⟩ := id hs
  have hs' : AeadShared (setAcc h s) := hs.congr
  have ha' : AccOk (setAcc h s) := accOk_of_acc fh
  obtain ⟨r, hr⟩ := aeadRegs_exists hs' ha'
  obtain ⟨-, -, -, hl', hb'⟩ := aeadRegs_bounds hs' ha' hr
  obtain ⟨-, -, -, -, -, -, rb, rl⟩ := aeadRegs_eq_ok.1 hr
  obtain rfl : r.hlen = hl := Option.some.inj (rl.symm.trans hhl)
  obtain rfl : r.blkcnt = bc := Option.some.inj (rb.symm.trans hbc)
  exact ⟨hl', hb'⟩

/-- Settles O54: both halves are below `2 ^ (n/2)`, so the upper is the quotient and the lower the remainder by it. -/
theorem lengthElementFits : Obligations.LengthElementFits := by
  intro s hl bc h hp hm hhl hbc
  obtain ⟨-, -, m, d, hm', hd, -⟩ := (sessionOk_of_active hp).1 h.session
  obtain ⟨-, hk⟩ := h.inSession hp hm hd
  obtain ⟨hlt, hbt⟩ := lengthHalves_lt (aeadShared_of_kindActive hk) hhl hbc
  refine ⟨lengthInt_lt hlt hbt, ?_, ?_⟩
  · rw [lengthInt_eq hbt, Nat.add_comm, Nat.add_mul_div_right _ _ (Nat.two_pow_pos _), Nat.div_eq_of_lt hbt, Nat.zero_add]
  · rw [lengthInt_eq hbt, Nat.mul_add_mod', Nat.mod_eq_of_lt hbt]

/-! ### `START` (R151, R152, R171) -/

section
variable {k : Collab} {s : State} {nonce header : Bytes} {cw hlen : Nat} {p : ExpSet} {acc : Elem}

theorem aeadChecks_ok (hp : selPoly (8 * s.bsize) s.poly = .ok p) (hn : s.nonce = some nonce) (hw : s.cw = some cw)
    (hsum : nonce.length + cw = s.bsize) (hhalf : 2 * nonce.length = s.bsize) (hle : hlen ≤ s.bsize) :
    aeadChecks s (some hlen) = .ok (nonce, cw, hlen) := by
  obtain ⟨nonce', cw', hlen', -, hn', hw', hh', -, -, -, -, h⟩ | ⟨h, -⟩ := aeadChecks_cases s (some hlen)
  · obtain rfl : nonce = nonce' := Option.some.inj (hn.symm.trans hn')
    obtain rfl : cw = cw' := Option.some.inj (hw.symm.trans hw')
    obtain rfl : hlen = hlen' := Option.some.inj hh'
    exact h
  · exact absurd ⟨hsum, hhalf, hle⟩ (h nonce cw hlen p hn hw rfl hp)

/-- The header block times the subkey, with which encrypt starts and which decrypt makes of its first item (R151, R160). -/
def headerSeed (k : Collab) (n : Nat) (header : Bytes) (popt : Option ExpSet) : Except FaultClass Elem :=
  feMultOp (elemOfBlock n (headerBlock n header)) (hashSubkey k n) popt

theorem headerSeed_exists (k : Collab) (header : Bytes) (hp : selPoly (8 * s.bsize) s.poly = .ok p) :
    ∃ acc, headerSeed k s.bsize header s.poly = .ok acc ∧ FullElem s acc :=
  feMultOp_exists rfl (fullElem_elemOfBlock (beBytes_length ..)).2 rfl hp

/-- An AEAD session just opened in direction `d`, with `acc` in `ACC` (R151, R152). -/
def aeadOpened (k : Collab) (d : Dir) (nonce : Bytes) (cw hlen : Nat) (acc : Option Elem) (s : State) : State :=
  respond .ok { aeadSetup k nonce cw hlen d (clearSession s) with acc := acc }

theorem aeadEncStart_eq (hc : aeadChecks s (some header.length) = .ok (nonce, cw, header.length))
    (hh : s.header = some header) (hx : headerSeed k s.bsize header s.poly = .ok acc) :
    aeadEncStart k s = .ok (setAcc acc (aeadSetup k nonce cw header.length .enc s)) := by
  rw [headerSeed] at hx
  simp only [aeadEncStart, hh, Option.map_some, hc, configured_some, hx, bind, Except.bind]

theorem aeadDecStart_eq (hc : aeadChecks s s.hlenCfg = .ok (nonce, cw, hlen)) :
    aeadDecStart k s = .ok (aeadSetup k nonce cw hlen .dec s) := by
  simp only [aeadDecStart, hc, bind, Except.bind]

theorem startWith_aead_enc (hc : aeadChecks s (some header.length) = .ok (nonce, cw, header.length))
    (hh : s.header = some header) (hx : headerSeed k s.bsize header s.poly = .ok acc) :
    startWith k .aead .enc s = aeadOpened k .enc nonce cw header.length (some acc) s := by
  simp only [startWith, startRule, startSession, aeadEncStart_eq (s := clearSession s) hc hh hx]
  rfl

theorem startWith_aead_dec (hc : aeadChecks s s.hlenCfg = .ok (nonce, cw, hlen)) :
    startWith k .aead .dec s = aeadOpened k .dec nonce cw hlen none s := by
  simp only [startWith, startRule, startSession, aeadDecStart_eq (s := clearSession s) hc]
  rfl

/-- The header length that the checks of an AEAD `START` are made with (R151, R152). -/
def startHlen (s : State) : Dir → Option Nat
  | .enc => s.header.map List.length
  | .dec => s.hlenCfg

theorem startRule_aead_refused (k : Collab) (d : Dir) (hc : aeadChecks s (startHlen s d) = .error .configuration) :
    startRule k .aead d s = .error .configuration := by
  cases d <;> exact (congrArg (· >>= _) hc).trans rfl

theorem startWith_aead_refused (k : Collab) (d : Dir) (hc : aeadChecks s (startHlen s d) = .error .configuration) :
    startWith k .aead d s = enterFault .configuration (setKind .aead d (clearSession s)) := by
  simp only [startWith, startSession, startRule_aead_refused (s := clearSession s) k d hc]

end

/-- Settles O26: the checks, on the state that the common part of `START` leaves, decide the case. -/
theorem startAeadEncSetsUpTheSession : Obligations.StartAeadEncSetsUpTheSession := by
  refine ⟨fun s nonce header cw p hp hn hw hh hsum hhalf hle => ?_, fun s h => ?_⟩
  · obtain ⟨acc, hacc, -⟩ := headerSeed_exists Config.collab header hp
    have hc := aeadChecks_ok hp hn hw hsum hhalf hle
    exact ⟨acc, hacc, congrArg Host.Outcome.next (startWith_aead_enc hc hh hacc)⟩
  · obtain ⟨nonce, cw, hlen, p, hn, hw, hh, hp, hsum, hhalf, hle, -⟩ | ⟨-, hc⟩ := aeadChecks_cases s (startHlen s .enc)
    · obtain ⟨header, hheader, rfl⟩ := Option.map_eq_some_iff.1 hh
      exact absurd ⟨hsum, hhalf, hle⟩ (h nonce header cw p hp hn hw hheader)
    · exact congrArg Host.Outcome.next (startWith_aead_refused Config.collab .enc hc)

/-- Settles O27: as for encrypt, with `HLEN_CFG` in place of the header. -/
theorem startAeadDecSetsUpTheSession : Obligations.StartAeadDecSetsUpTheSession := by
  refine ⟨fun s nonce cw hl p hp hn hw hh hsum hhalf hle => ?_, fun s h => ?_⟩
  · have hc := aeadChecks_ok hp hn hw hsum hhalf hle
    exact congrArg Host.Outcome.next (startWith_aead_dec (hh ▸ hc))
  · obtain ⟨nonce, cw, hlen, p, hn, hw, hh, hp, hsum, hhalf, hle, -⟩ | ⟨-, hc⟩ := aeadChecks_cases s (startHlen s .dec)
    · exact absurd ⟨hsum, hhalf, hle⟩ (h nonce cw hlen p hp hn hw hh)
    · exact congrArg Host.Outcome.next (startWith_aead_refused Config.collab .dec hc)

/-! ### The steps of encrypt (R153 to R159) -/

/-- The block `x` and the keystream block that these registers make, added (R143, R157, R161). -/
def aeadBlock (k : Collab) (n : Nat) (r : AeadRegs) (x : Bytes) : Bytes := bxor x (keystream k n r.nonce r.cw r.ctr)

/-- The state after a data block: the accumulator, the two counters and the `E` call (R157, R161). -/
def aeadNextBlock (r : AeadRegs) (acc : Elem) (s : State) : State :=
  setBlkcnt (r.blkcnt + 1) (setCtr (r.ctr + 1) (setAcc acc (logCall (.encrypt (counterBlock r.nonce r.cw r.ctr)) s)))

/-- The tag block of a session whose last accumulator is `acc` (R159, R162). -/
def aeadTagBlock (n : Nat) (r : AeadRegs) (acc : Elem) : Bytes := beBytes (acc.v ^^^ r.ek.v) n

section
variable {k : Collab} {s s1 : State} {c header : Bytes} {last : Bool} {r : AeadRegs} {acc hk : Elem}

theorem pullWith_aead_enc_start (hp : s.phase = .start) (hm : s.mode = some .aead) (hd : s.dir = some .enc) :
    pullWith k s = aeadEncFirst s := by
  simp only [pullWith, sessionPull, aeadPull, hp, hm, hd]

theorem pullWith_aead_enc_final (hp : s.phase = .final) (hm : s.mode = some .aead) (hd : s.dir = some .enc) :
    pullWith k s = aeadEncTag s := by
  simp only [pullWith, sessionPull, aeadPull, hp, hm, hd]

theorem poly_of_seqNext {x : SeqResult} (hi : seqNext s = (s1, x)) : s1.poly = s.poly := by
  rw [← seqNext_poly s, hi]

theorem aeadRegs_of_seqNext {x : SeqResult} (hi : seqNext s = (s1, x)) : aeadRegs s1 = aeadRegs s := by
  rw [← aeadRegs_seqNext s, hi]

theorem aeadEncFirst_eq (hh : s.header = some header) :
    aeadEncFirst s = .next (respond (.out (headerBlock s.bsize header)) (setPhase .chaining s)) := by
  rw [aeadEncFirst, hh, need_some, withRegs_ok]

theorem aeadEncData_short (hf : sourceFits s = true) (hi : seqNext s = (s1, .item c last)) (hc : c.length ≠ s.bsize) :
    aeadEncData k s = .next (enterFault .configuration s1) := by
  rw [aeadEncData, withItem_item hf hi, bsize_of_seqNext hi, if_pos hc]

/-- An AEAD encrypt step that gets a full block, with the registers it reads. -/
theorem aeadEncData_block (hf : sourceFits s = true) (hi : seqNext s = (s1, .item c last)) (hc : c.length = s.bsize)
    (hr : aeadRegs s = .ok r) :
    aeadEncData k s =
      if counterSpent r.cw r.ctr then .next (enterFault .range s1)
      else
        withValue (accumulate s.poly r.acc (elemOfBlock s.bsize (aeadBlock k s.bsize r c)) r.h)
          (logCall (.encrypt (counterBlock r.nonce r.cw r.ctr)) s1) fun acc =>
          .next (respond (.out (aeadBlock k s.bsize r c))
            (setPhase (if last then .final else s.phase) (aeadNextBlock r acc s1))) := by
  rw [aeadEncData, withItem_item hf hi, bsize_of_seqNext hi, if_neg (not_not.2 hc), aeadRegs_of_seqNext hi, hr, withRegs_ok,
    ← bsize_of_seqNext hi, ← poly_of_seqNext hi, ← phase_of_seqNext hi]
  rfl

theorem aeadEncData_spent (hf : sourceFits s = true) (hi : seqNext s = (s1, .item c last)) (hc : c.length = s.bsize)
    (hr : aeadRegs s = .ok r) (hspent : 2 ^ (8 * r.cw) ≤ r.ctr) : aeadEncData k s = .next (enterFault .range s1) := by
  rw [aeadEncData_block hf hi hc hr, if_pos (counterSpent_iff.2 hspent)]

theorem aeadEncData_out (hf : sourceFits s = true) (hi : seqNext s = (s1, .item c last)) (hc : c.length = s.bsize)
    (hr : aeadRegs s = .ok r) (hlt : r.ctr < 2 ^ (8 * r.cw))
    (hx : accumulate s.poly r.acc (elemOfBlock s.bsize (aeadBlock k s.bsize r c)) r.h = .ok acc) :
    aeadEncData k s =
      .next (respond (.out (aeadBlock k s.bsize r c))
        (setPhase (if last then .final else s.phase) (aeadNextBlock r acc s1))) := by
  rw [aeadEncData_block hf hi hc hr, if_neg (counterSpent_iff.not.2 (Nat.not_le.2 hlt)), hx, withValue_ok]

theorem aeadEncTag_eq (hr : aeadRegs s = .ok r)
    (hx : finalise s.poly (8 * s.bsize) r = .ok (acc, ⟨8 * s.bsize, acc.v ^^^ r.ek.v⟩)) :
    aeadEncTag s = .next (respond (.out (aeadTagBlock s.bsize r acc)) (setPhase .done (setAcc acc s))) := by
  rw [aeadEncTag, hr, withRegs_ok, hx, withValue_ok]
  rfl

/-! ### The steps of decrypt (R160 to R163) -/

theorem pullWith_aead_dec_start (hp : s.phase = .start) (hm : s.mode = some .aead) (hd : s.dir = some .dec) :
    pullWith k s = aeadDecFirst k s := by
  simp only [pullWith, sessionPull, aeadPull, hp, hm, hd]

theorem pullWith_aead_dec_chaining (hp : s.phase = .chaining) (hm : s.mode = some .aead) (hd : s.dir = some .dec) :
    pullWith k s = aeadDecChain k s := by
  simp only [pullWith, sessionPull, aeadPull, hp, hm, hd]

theorem aeadDecFirst_last (hf : sourceFits s = true) (hi : seqNext s = (s1, .item c true)) :
    aeadDecFirst k s = .next (enterFault .stream s1) := by
  rw [aeadDecFirst, withItem_item hf hi, if_pos rfl]

theorem aeadDecFirst_short (hf : sourceFits s = true) (hi : seqNext s = (s1, .item c false)) (hc : c.length ≠ s.bsize) :
    aeadDecFirst k s = .next (enterFault .configuration s1) := by
  rw [aeadDecFirst, withItem_item hf hi, if_neg Bool.false_ne_true, bsize_of_seqNext hi, if_pos hc]

/-- The header block seeds the accumulator, and the same `PULL` goes on in `CHAINING` (R160). -/
theorem pullWith_aead_dec_header (hp : s.phase = .start) (hm : s.mode = some .aead) (hd : s.dir = some .dec)
    (hf : sourceFits s = true) (hi : seqNext s = (s1, .item c false)) (hc : c.length = s.bsize) (hh : s.h = some hk)
    (hx : feMultOp (elemOfBlock s.bsize c) hk s.poly = .ok acc) :
    pullWith k s = pullWith k (setPhase .chaining (setAcc acc s1)) := by
  have hh1 : s1.h = some hk := by rw [← hh, ← seqNext_h s, hi]
  have hm1 : (setPhase .chaining (setAcc acc s1)).mode = some .aead := by simp [← hm, ← seqNext_mode s, hi]
  have hd1 : (setPhase .chaining (setAcc acc s1)).dir = some .dec := by simp [← hd, ← seqNext_dir s, hi]
  rw [pullWith_aead_dec_start hp hm hd, aeadDecFirst, withItem_item hf hi, if_neg Bool.false_ne_true, bsize_of_seqNext hi,
    if_neg (not_not.2 hc), hh1, need_some, withRegs_ok, poly_of_seqNext hi, hx, withValue_ok,
    pullWith_aead_dec_chaining rfl hm1 hd1]

theorem aeadDecChain_short (hf : sourceFits s = true) (hi : seqNext s = (s1, .item c last)) (hc : c.length ≠ s.bsize) :
    aeadDecChain k s = .next (enterFault .configuration s1) := by
  rw [aeadDecChain, withItem_item hf hi, bsize_of_seqNext hi, if_pos hc]

/-- An AEAD decrypt step that gets a block before the last one, with the registers it reads. -/
theorem aeadDecChain_block (hf : sourceFits s = true) (hi : seqNext s = (s1, .item c false)) (hc : c.length = s.bsize)
    (hr : aeadRegs s = .ok r) (hx : accumulate s.poly r.acc (elemOfBlock s.bsize c) r.h = .ok acc) :
    aeadDecChain k s =
      if counterSpent r.cw r.ctr then .next (enterFault .range s1)
      else .next (respond (.out (aeadBlock k s.bsize r c)) (aeadNextBlock r acc s1)) := by
  rw [aeadDecChain, withItem_item hf hi, bsize_of_seqNext hi, if_neg (not_not.2 hc), if_neg Bool.false_ne_true, aeadDecData,
    aeadRegs_of_seqNext hi, hr, withRegs_ok, bsize_of_seqNext hi, poly_of_seqNext hi, hx, withValue_ok]
  rfl

theorem aeadDecChain_spent (hf : sourceFits s = true) (hi : seqNext s = (s1, .item c false)) (hc : c.length = s.bsize)
    (hr : aeadRegs s = .ok r) (hx : accumulate s.poly r.acc (elemOfBlock s.bsize c) r.h = .ok acc)
    (hspent : 2 ^ (8 * r.cw) ≤ r.ctr) : aeadDecChain k s = .next (enterFault .range s1) := by
  rw [aeadDecChain_block hf hi hc hr hx, if_pos (counterSpent_iff.2 hspent)]

theorem aeadDecChain_out (hf : sourceFits s = true) (hi : seqNext s = (s1, .item c false)) (hc : c.length = s.bsize)
    (hr : aeadRegs s = .ok r) (hx : accumulate s.poly r.acc (elemOfBlock s.bsize c) r.h = .ok acc)
    (hlt : r.ctr < 2 ^ (8 * r.cw)) :
    aeadDecChain k s = .next (respond (.out (aeadBlock k s.bsize r c)) (aeadNextBlock r acc s1)) := by
  rw [aeadDecChain_block hf hi hc hr hx, if_neg (counterSpent_iff.not.2 (Nat.not_le.2 hlt))]

/-- The last block is compared with the recomputed tag block, and the outcome is a value (R162, R163). -/
theorem aeadDecChain_tag (hf : sourceFits s = true) (hi : seqNext s = (s1, .item c true))
    (hc : c.length = s.bsize) (hr : aeadRegs s = .ok r)
    (hx : finalise s.poly (8 * s.bsize) r = .ok (acc, ⟨8 * s.bsize, acc.v ^^^ r.ek.v⟩)) :
    aeadDecChain k s =
      .next (respond (.done (some (decide (aeadTagBlock s.bsize r acc = c))))
        (setPhase .done (setVerify (verifyOf (aeadTagBlock s.bsize r acc) c) (setAcc acc s1)))) := by
  rw [aeadDecChain, withItem_item hf hi, bsize_of_seqNext hi, if_neg (not_not.2 hc), if_pos rfl, aeadDecTag,
    aeadRegs_of_seqNext hi, hr, withRegs_ok, bsize_of_seqNext hi, poly_of_seqNext hi, hx, withValue_ok]
  rfl

end

/-! ### `PULL` where the invariant holds -/

/-- In `CHAINING` the registers of a session are there to be read, and the invariant bounds them. -/
theorem StateInv.aeadChaining {d : Dir} {s : State} (h : StateInv s) (hp : s.phase = .chaining) (hm : s.mode = some .aead)
    (hd : s.dir = some d) : AeadShared s ∧ AccOk s := by
  obtain ⟨-, hk⟩ := h.inPhase hp hm hd
  obtain ⟨hs, ha, -⟩ := (kindActive_aead_chaining hp).1 hk
  exact ⟨hs, ha⟩

theorem length_aeadBlock (k : Collab) {n : Nat} (r : AeadRegs) {x : Bytes} (hx : x.length = n) :
    (aeadBlock k n r x).length = n := by
  rw [aeadBlock, bxor_length, keystream, encryptBlock_length, hx, Nat.min_self]

/-- Settles O36: `START` takes no item; in `CHAINING` the item's length is tested first, then the counter, and the
accumulator takes the ciphertext block. -/
theorem pullAeadEncrypt : Obligations.PullAeadEncrypt := by
  refine ⟨fun s header hp hm hd hh => ?_, fun s s1 c last h hp hm hd hi => ?_⟩
  · exact (pullWith_aead_enc_start hp hm hd).trans (aeadEncFirst_eq hh)
  have hpull : exec .pull s = aeadEncData Config.collab s := pullWith_aead_enc_chaining hm hd hp
  simp only [hpull]
  refine ⟨aeadEncData_short h.source hi, fun hc nonce cw n bc acc hk hn hw hctr hbc hacc hh => ?_⟩
  obtain ⟨hs, ha⟩ := h.aeadChaining hp hm hd
  obtain ⟨-, -, ⟨⟨-, ek, -, hek, -⟩, -, hl, hhl, -⟩, -⟩ := id hs
  have hr : aeadRegs s = .ok ⟨nonce, cw, n, acc, hk, ek, bc, hl⟩ :=
    aeadRegs_eq_ok.2 ⟨hn, hw, hctr, hacc, hh, hek, hbc, hhl⟩
  refine ⟨fun hlt => ?_, aeadEncData_spent h.source hi hc hr⟩
  have hblock := length_aeadBlock Config.collab ⟨nonce, cw, n, acc, hk, ek, bc, hl⟩ hc
  obtain ⟨x, hmult, hx⟩ := accumulate_block_eq hs ha hr hblock
  refine ⟨x, hmult, ?_⟩
  simp only [aeadEncData_out h.source hi hc hr hlt hx, hp, aeadBlock, keystream, counterBlock, aeadNextBlock, respond,
    setPhase, setBlkcnt, setCtr, setAcc, logCall]

/-- Settles O37: the registers of a session in `FINAL` are in bounds, so the finalisation gives accumulator and tag. -/
theorem pullAeadTag : Obligations.PullAeadTag := by
  intro s acc hk ek bc hl h hp hm hd hacc hh hek hbc hhl
  obtain ⟨-, hka⟩ := h.inPhase hp hm hd
  obtain ⟨hs, ha, -⟩ := (kindActive_aead_enc_final hp).1 hka
  obtain ⟨-, ⟨nonce, cw, n, hn, hw, hctr, -⟩, -⟩ := id hs
  have hr : aeadRegs s = .ok ⟨nonce, cw, n, acc, hk, ek, bc, hl⟩ :=
    aeadRegs_eq_ok.2 ⟨hn, hw, hctr, hacc, hh, hek, hbc, hhl⟩
  obtain ⟨x, hmult, hx⟩ := finalise_eq hs ha hr
  rw [lengthInt_eq_or] at hmult
  exact ⟨x, hmult, (pullWith_aead_enc_final hp hm hd).trans (aeadEncTag_eq hr hx)⟩

/-- Settles O38: the item's tag and its length decide the case; a full block that is not the last seeds the accumulator. -/
theorem pullAeadHeader : Obligations.PullAeadHeader := by
  intro s s1 c last h hp hm hd hi
  have hpull : exec .pull s = aeadDecFirst Config.collab s := pullWith_aead_dec_start hp hm hd
  refine ⟨?_, ?_, ?_⟩
  · rintro rfl
    exact hpull.trans (aeadDecFirst_last h.source hi)
  · rintro rfl hc
    exact hpull.trans (aeadDecFirst_short h.source hi hc)
  · rintro rfl hc hk hh
    obtain ⟨-, hka⟩ := h.inPhase hp hm hd
    obtain ⟨⟨-, -, ⟨⟨hk', -, hh', -, ⟨hn, -⟩, -⟩, -⟩, ⟨p, hsel⟩, -⟩, -⟩ := (kindActive_aead_dec_start hp).1 hka
    obtain rfl : hk = hk' := Option.some.inj (hh.symm.trans hh')
    obtain ⟨acc, hx, -⟩ := feMultOp_exists rfl (fullElem_elemOfBlock hc).2 hn hsel
    exact ⟨acc, hx, pullWith_aead_dec_header hp hm hd h.source hi hc hh hx⟩

/-- Settles O39: the item's length is tested first, then its tag; a block before the last one enters the accumulator before
the counter is tested, and the last one is compared with the tag that the finalisation gives. -/
theorem pullAeadDecrypt : Obligations.PullAeadDecrypt := by
  intro s s1 c last h hp hm hd hi
  have hpull : exec .pull s = aeadDecChain Config.collab s := pullWith_aead_dec_chaining hp hm hd
  simp only [hpull]
  refine ⟨aeadDecChain_short h.source hi, fun hc nonce cw n bc hl acc hk ek hn hw hctr hbc hhl hacc hh hek => ?_⟩
  obtain ⟨hs, ha⟩ := h.aeadChaining hp hm hd
  have hr : aeadRegs s = .ok ⟨nonce, cw, n, acc, hk, ek, bc, hl⟩ :=
    aeadRegs_eq_ok.2 ⟨hn, hw, hctr, hacc, hh, hek, hbc, hhl⟩
  obtain ⟨x, hmult, hx⟩ := accumulate_block_eq hs ha hr hc
  refine ⟨?_, ?_, ?_⟩
  · rintro rfl hlt
    refine ⟨x, hmult, ?_⟩
    simp only [aeadDecChain_out h.source hi hc hr hx hlt, aeadBlock, keystream, counterBlock, aeadNextBlock, respond,
      setBlkcnt, setCtr, setAcc, logCall]
  · rintro rfl hspent
    exact aeadDecChain_spent h.source hi hc hr hx hspent
  · rintro rfl
    obtain ⟨y, hlast, hy⟩ := finalise_eq hs ha hr
    rw [lengthInt_eq_or] at hlast
    exact ⟨y, hlast, aeadDecChain_tag h.source hi hc hr hy⟩

/-- Settles O55: the last product has the factor 0, so the accumulator is 0 and the tag is the mask alone. -/
theorem zeroSubkeyMakesTheTagTheMask : Obligations.ZeroSubkeyMakesTheTagTheMask := by
  intro s ek h hp hm hd hh hek
  obtain ⟨-, hka⟩ := h.inPhase hp hm hd
  obtain ⟨⟨-, -, ⟨-, ⟨bc, -, hbc⟩, hl, hhl, -⟩, ⟨p, hsel⟩, -⟩, ⟨acc, hacc, -⟩, -⟩ := (kindActive_aead_enc_final hp).1 hka
  obtain ⟨x, hmult, hpull⟩ := pullAeadTag s acc _ ek bc hl h hp hm hd hacc hh hek hbc hhl
  rw [feMultOp_of_clProduct_lt hsel (by simp), clProduct_zero_right] at hmult
  obtain rfl := Except.ok.inj hmult
  exact ⟨_, hpull, rfl, by rw [Nat.zero_xor]⟩

end Sys2Proof.Machine
end

section
/-!
PROOFS. The AEAD round trip of whole streams (spec/45_aead.md R165): an encrypt session and a decrypt session that hold the
same registers keep them the same from block to block, because both accumulators take the ciphertext.
-/

namespace Sys2Proof.Machine

/-! ### Contents of whole blocks (R110) -/

theorem ceilDiv_of_blocks {b l : Nat} (hb : 0 < b) (h : l % b = 0) : (l + b - 1) / b = l / b := by
  obtain ⟨q, rfl⟩ := Nat.dvd_of_mod_eq_zero h
  rw [Nat.add_sub_assoc hb, Nat.mul_add_div hb, Nat.div_eq_of_lt (Nat.sub_lt hb Nat.one_pos), Nat.mul_div_cancel_left q hb,
    Nat.add_zero]

theorem length_chunksOf_of_blocks {b : Nat} (hb : 0 < b) {content : Bytes} (h : content.length % b = 0) :
    (chunksOf b content).length = content.length / b := by
  rw [length_chunksOf, ceilDiv_of_blocks hb h]

theorem length_of_mem_chunksOf {b : Nat} (hb : 0 < b) {content : Bytes} (h : content.length % b = 0) :
    ∀ x ∈ chunksOf b content, x.length = b := by
  intro x hx
  obtain ⟨i, hi, rfl⟩ := List.mem_map.1 hx
  rw [List.mem_range, ceilDiv_of_blocks hb h] at hi
  have hle : (i + 1) * b ≤ content.length := (Nat.le_div_iff_mul_le hb).1 hi
  rw [Nat.succ_mul] at hle
  rw [length_chunkAt]
  omega

/-! ### Sessions and their ends -/

/-- A `PULL` that answers `Done` ends the run with no further element (R85). -/
theorem yields_of_done_answer {k : Collab} {s t : State} {verify : Option Bool}
    (e : pullWith k s = .next (respond (.done verify) t)) (hp : t.phase = .done) (hr : t.responses = s.responses) :
    Yields k s [] verify := by
  intro fuel hfuel
  obtain ⟨fuel, rfl⟩ := Nat.exists_eq_succ_of_ne_zero hfuel.ne'
  refine ⟨_, pullUntilEnd_of_ended fuel e ⟨⟨_, _, _, rfl, rfl⟩, .inl hp⟩, ?_⟩
  rw [respond_responses, resultOf_done, List.append_nil, hr]

/-- A session that was opened gives its elements, concatenated, when there are fewer than the bound on the `PULL`s (R180). -/
theorem streamCall_of_yields_lt {k : Collab} {m : Mode} {d : Dir} {src : Source} {s : State} {elements : List Bytes}
    {verify : Option Bool} (hr : (startWith k m d (linedUp src s)).responses = [.ok])
    (h : Yields k (startWith k m d (linedUp src s)) elements verify) (hlen : elements.length < pullBound src.chunks.length) :
    streamCall k m d src s = some ⟨elements.flatten, .done verify⟩ := by
  obtain ⟨t, ht, hresult⟩ := h _ hlen
  have hstream : streamResult k m d src s = some ⟨elements, .done verify⟩ := by
    unfold linedUp at ht
    simp only [streamResult, ht, hresult, hr, outElements_ok, outElements_nil, List.nil_append]
  exact streamCall_of_result hstream

/-- `Done` carries no verification outcome in AEAD encrypt (R81). -/
theorem doneVerify_of_enc {s : State} (hd : s.dir = some .enc) : doneVerify s = none := by
  simp [doneVerify, hd]

/-! ### A session with the registers `r` -/

/-- An AEAD session in direction `d` and phase `p` (R29), with block size `n`, the polynomial choice `popt` and the registers
`r`, which are in bounds. -/
structure InAead (n : Nat) (popt : Option ExpSet) (d : Dir) (p : Phase) (r : AeadRegs) (s : State) : Prop where
  phase : s.phase = p
  mode : s.mode = some .aead
  dir : s.dir = some d
  bsize : s.bsize = n
  poly : s.poly = popt
  shared : AeadShared s
  acc : AccOk s
  regs : aeadRegs s = .ok r

/-- The fields that `InAead` speaks of, beside the phase. -/
def aeadSessionFields (s : State) := (s.mode, s.dir, s.acc, aeadFields s)

/-- The registers after a data block, with `acc` in the accumulator (R157, R161). -/
def AeadRegs.next (r : AeadRegs) (acc : Elem) : AeadRegs :=
  { r with ctr := r.ctr + 1, acc := acc, blkcnt := r.blkcnt + 1 }

section
variable {k : Collab} {n : Nat} {popt : Option ExpSet} {d : Dir} {p q : Phase} {r : AeadRegs} {s t : State} {acc : Elem}
  {x c : Bytes} {last : Bool}

theorem InAead.congr (h : InAead n popt d p r s) (hq : t.phase = q)
    (e : aeadSessionFields t = aeadSessionFields s := by simp [aeadSessionFields, aeadFields]) : InAead n popt d q r t := by
  obtain ⟨-, hm, hd, hb, hp, hs, ha, hr⟩ := h
  simp only [aeadSessionFields, Prod.mk.injEq] at e
  obtain ⟨em, ed, ea, e⟩ := e
  have hs' := hs.congr e
  simp only [aeadFields, Prod.mk.injEq] at e
  obtain ⟨eb, en, ew, ep, -, ec, eh, ek, ebc, ehl⟩ := e
  refine ⟨hq, em.trans hm, ed.trans hd, eb.trans hb, ep.trans hp, hs', ?_, ?_⟩
  · simpa only [AccOk, FullElem, ea, eb] using ha
  · simpa only [aeadRegs, en, ew, ec, ea, eh, ek, ebc, ehl] using hr

/-- A ciphertext block taken into the accumulator (R150). -/
theorem InAead.accumulates (h : InAead n popt d p r s) (hc : c.length = n) :
    ∃ acc, accumulate popt r.acc (elemOfBlock n c) r.h = .ok acc := by
  obtain ⟨-, -, -, rfl, rfl, hs, ha, hr⟩ := h
  obtain ⟨acc, hx, -⟩ := accumulate_block hs ha hr hc
  exact ⟨acc, hx⟩

theorem InAead.afterItem (h : InAead n popt d p r s) : InAead n popt d p r (seqNext s).1 :=
  h.congr (by simpa using h.phase)

theorem InAead.nextBlock (h : InAead n popt d p r s) (hlt : r.ctr < 2 ^ (8 * r.cw)) (hc : c.length = n)
    (hx : accumulate popt r.acc (elemOfBlock n c) r.h = .ok acc) :
    InAead n popt d p (r.next acc) (aeadNextBlock r acc s) := by
  obtain ⟨hp, hm, hd, rfl, rfl, hs, ha, hr⟩ := h
  obtain ⟨y, hy, fy⟩ := accumulate_block hs ha hr hc
  obtain rfl : acc = y := Except.ok.inj (hx.symm.trans hy)
  obtain ⟨rn, rcw, -, -, rh, re, -, rl⟩ := aeadRegs_eq_ok.1 hr
  exact ⟨hp, hm, hd, rfl, rfl, aeadShared_next_block hs hr hlt rfl, accOk_of_acc fy rfl rfl,
    aeadRegs_eq_ok.2 ⟨rn, rcw, rfl, rfl, rh, re, rfl, rl⟩⟩

/-- An encrypt step answers the ciphertext block, and the last one leads to `FINAL` (R157). -/
theorem InAead.encStep (k : Collab) (h : InAead n popt .enc .chaining r s) (hlt : r.ctr < 2 ^ (8 * r.cw))
    (hf : sourceFits s = true) (hi : seqNext s = ((seqNext s).1, .item x last)) (hx : x.length = n) :
    ∃ acc t, accumulate popt r.acc (elemOfBlock n (aeadBlock k n r x)) r.h = .ok acc ∧
      Emits k s (aeadBlock k n r x) t ∧ InAead n popt .enc (if last then .final else .chaining) (r.next acc) t ∧
      sourceFields t = sourceFields (seqNext s).1 := by
  have hblock := length_aeadBlock k r hx
  obtain ⟨acc, hacc⟩ := h.accumulates hblock
  have hnext := h.afterItem.nextBlock hlt hblock hacc
  obtain ⟨hp, hm, hd, rfl, rfl, -, -, hr⟩ := h
  have hstep := (pullWith_aead_enc_chaining (k := k) hm hd hp).trans (aeadEncData_out hf hi hx hr hlt hacc)
  rw [hp] at hstep
  exact ⟨acc, _, hacc, emits_respond hstep (by simp [aeadNextBlock]), hnext.congr rfl rfl,
    by simp [sourceFields, aeadNextBlock]⟩

/-- A decrypt step answers the block that the same keystream makes of the ciphertext block (R161). -/
theorem InAead.decStep (k : Collab) (h : InAead n popt .dec .chaining r s) (hlt : r.ctr < 2 ^ (8 * r.cw))
    (hf : sourceFits s = true) (hi : seqNext s = ((seqNext s).1, .item c false)) (hc : c.length = n)
    (hacc : accumulate popt r.acc (elemOfBlock n c) r.h = .ok acc) :
    ∃ t, Emits k s (aeadBlock k n r c) t ∧ InAead n popt .dec .chaining (r.next acc) t ∧
      sourceFields t = sourceFields (seqNext s).1 := by
  have hnext := h.afterItem.nextBlock hlt hc hacc
  obtain ⟨hp, hm, hd, rfl, rfl, -, -, hr⟩ := h
  have hstep := (pullWith_aead_dec_chaining (k := k) hp hm hd).trans (aeadDecChain_out hf hi hc hr hacc hlt)
  exact ⟨_, emits_respond hstep (by simp [aeadNextBlock]), hnext.congr hnext.phase rfl,
    by simp [sourceFields, aeadNextBlock]⟩

/-- In `FINAL` an encrypt session answers its tag block, and then `Done` (R159). -/
theorem InAead.encTag (k : Collab) (h : InAead n popt .enc .final r s) :
    ∃ acc, finalise popt (8 * n) r = .ok (acc, ⟨8 * n, acc.v ^^^ r.ek.v⟩) ∧ Yields k s [aeadTagBlock n r acc] none := by
  obtain ⟨hp, hm, hd, rfl, rfl, hs, ha, hr⟩ := h
  obtain ⟨acc, -, hx⟩ := finalise_eq hs ha hr
  have htag := (pullWith_aead_enc_final (k := k) hp hm hd).trans (aeadEncTag_eq hr hx)
  have hdone := yields_of_done k (s := respond (.out (aeadTagBlock s.bsize r acc)) (setPhase .done (setAcc acc s))) rfl
  rw [doneVerify_of_enc (by simpa using hd)] at hdone
  exact ⟨acc, hx, hdone.cons (emits_respond htag rfl)⟩

/-- The last block of a decrypt session is compared with the tag block that the registers make (R162). -/
theorem InAead.decTag (k : Collab) (h : InAead n popt .dec .chaining r s) (hf : sourceFits s = true)
    (hi : seqNext s = ((seqNext s).1, .item c true)) (hc : c.length = n)
    (hx : finalise popt (8 * n) r = .ok (acc, ⟨8 * n, acc.v ^^^ r.ek.v⟩)) :
    Yields k s [] (some (decide (aeadTagBlock n r acc = c))) := by
  obtain ⟨hp, hm, hd, rfl, rfl, -, -, hr⟩ := h
  have htag := (pullWith_aead_dec_chaining (k := k) hp hm hd).trans (aeadDecChain_tag hf hi hc hr hx)
  exact yields_of_done_answer htag rfl (seqNext_responses s)

end

/-! ### Two sessions with the same registers -/

/-- A decrypt session that holds the registers `r` makes the blocks `plain` of the ciphertext blocks `cs`, whatever tag block
`t` comes after them, and compares `t` with `tag`. -/
def OpensTo (k : Collab) (n : Nat) (popt : Option ExpSet) (r : AeadRegs) (cs : List Bytes) (tag : Bytes)
    (plain : List Bytes) : Prop :=
  ∀ (s : State) (t : Bytes), InAead n popt .dec .chaining r s → t.length = n →
    Delivers s (cs.map (·, false) ++ [(t, true)]) → Yields k s plain (some (decide (tag = t)))

section
variable {k : Collab} {n : Nat} {popt : Option ExpSet} {r : AeadRegs} {s : State} {acc : Elem} {x tag t header : Bytes}
  {cs xs : List Bytes}

theorem opensTo_nil (k : Collab) (hx : finalise popt (8 * n) r = .ok (acc, ⟨8 * n, acc.v ^^^ r.ek.v⟩)) :
    OpensTo k n popt r [] (aeadTagBlock n r acc) [] := by
  intro s t hs ht hitems
  obtain ⟨hf, hi, -⟩ := hitems.next
  exact hs.decTag k hf hi ht hx

/-- The same keystream block, added twice, gives the block back. -/
theorem aeadBlock_aeadBlock (k : Collab) (r : AeadRegs) (hx : x.length = n) : aeadBlock k n r (aeadBlock k n r x) = x :=
  bxor_bxor_cancel x _ (by rw [keystream, encryptBlock_length, hx])

theorem OpensTo.cons (h : OpensTo k n popt (r.next acc) cs tag xs) (hlt : r.ctr < 2 ^ (8 * r.cw)) (hx : x.length = n)
    (hacc : accumulate popt r.acc (elemOfBlock n (aeadBlock k n r x)) r.h = .ok acc) :
    OpensTo k n popt r (aeadBlock k n r x :: cs) tag (x :: xs) := by
  intro s t hs ht hitems
  obtain ⟨hf, hi, hrest⟩ := hitems.next
  obtain ⟨u, hu, hus, hfields⟩ := hs.decStep k hlt hf hi (length_aeadBlock k r hx) hacc
  rw [aeadBlock_aeadBlock k r hx] at hu
  exact (h u t hus ht (hrest.congr hfields)).cons hu

/-- An encrypt session over whole blocks that the counter can number answers ciphertext blocks and a tag block; a decrypt
session with the same registers opens them (R157 to R162). -/
theorem aeadEnc_seals (hs : InAead n popt .enc .chaining r s) (hne : xs ≠ []) (hitems : Delivers s (tagFinal xs))
    (hxs : ∀ x ∈ xs, x.length = n) (hc : r.ctr + xs.length ≤ 2 ^ (8 * r.cw)) :
    ∃ cs tag, cs.map List.length = xs.map List.length ∧ tag.length = n ∧ Yields k s (cs ++ [tag]) none ∧
      OpensTo k n popt r cs tag xs := by
  induction xs using tagFinal.induct generalizing r s with
  | case1 => exact absurd rfl hne
  | case2 x =>
    have hx : x.length = n := hxs x List.mem_cons_self
    obtain ⟨hf, hi, -⟩ := hitems.next
    obtain ⟨acc, t, hacc, ht, hts, -⟩ := hs.encStep k hc hf hi hx
    obtain ⟨acc', hfinal, htag⟩ := hts.encTag k
    refine ⟨[aeadBlock k n r x], aeadTagBlock n (r.next acc) acc', ?_, beBytes_length .., htag.cons ht,
      (opensTo_nil k hfinal).cons hc hx hacc⟩
    exact congrArg (fun l => [l]) ((length_aeadBlock k r hx).trans hx.symm)
  | case3 x y xs ih =>
    rw [List.forall_mem_cons] at hxs
    obtain ⟨hx, hxs⟩ := hxs
    rw [List.length_cons] at hc
    have hlt : r.ctr < 2 ^ (8 * r.cw) := by omega
    obtain ⟨hf, hi, hrest⟩ := hitems.next
    obtain ⟨acc, t, hacc, ht, hts, hfields⟩ := hs.encStep k hlt hf hi hx
    have hbound : (r.next acc).ctr + (y :: xs).length ≤ 2 ^ (8 * (r.next acc).cw) := by
      simp only [AeadRegs.next]
      omega
    obtain ⟨cs, tag, hlengths, htag, hyields, hopens⟩ :=
      ih hts (List.cons_ne_nil y xs) (hrest.congr hfields) hxs hbound
    refine ⟨aeadBlock k n r x :: cs, tag, ?_, htag, hyields.cons ht, hopens.cons hlt hx hacc⟩
    exact congrArg₂ List.cons ((length_aeadBlock k r hx).trans hx.symm) hlengths

/-- An encrypt session answers the header block first, from `START` (R153). -/
theorem aeadEnc_seals_header (hs : InAead n popt .enc .start r s) (hh : s.header = some header) (hne : xs ≠ [])
    (hitems : Delivers s (tagFinal xs)) (hxs : ∀ x ∈ xs, x.length = n) (hc : r.ctr + xs.length ≤ 2 ^ (8 * r.cw)) :
    ∃ cs tag, cs.map List.length = xs.map List.length ∧ tag.length = n ∧
      Yields k s (headerBlock n header :: (cs ++ [tag])) none ∧ OpensTo k n popt r cs tag xs := by
  have hfirst := (pullWith_aead_enc_start (k := k) hs.phase hs.mode hs.dir).trans (aeadEncFirst_eq hh)
  rw [hs.bsize] at hfirst
  have hu : InAead n popt .enc .chaining r (respond (.out (headerBlock n header)) (setPhase .chaining s)) := hs.congr rfl rfl
  obtain ⟨cs, tag, hlengths, htag, hyields, hopens⟩ := aeadEnc_seals (k := k) hu hne (hitems.congr rfl) hxs hc
  exact ⟨cs, tag, hlengths, htag, hyields.cons (emits_respond hfirst rfl), hopens⟩

/-- A decrypt session makes the same accumulator of its first item, and answers nothing for it (R160). -/
theorem OpensTo.after_header (h : OpensTo k n popt r cs tag xs) (hs : InAead n popt .dec .start r (setAcc r.acc s))
    (hseed : feMultOp (elemOfBlock n header) r.h popt = .ok r.acc) (hheader : header.length = n) (ht : t.length = n)
    (hitems : Delivers s ((header, false) :: (cs.map (·, false) ++ [(t, true)]))) :
    Yields k s xs (some (decide (tag = t))) := by
  obtain ⟨hf, hi, hrest⟩ := hitems.next
  have hu : InAead n popt .dec .chaining r (setPhase .chaining (setAcc r.acc (seqNext s).1)) := hs.congr rfl
  obtain ⟨hp, hm, hd, rfl, rfl, -, -, hr⟩ := hs
  obtain ⟨-, -, -, -, hh, -⟩ := aeadRegs_eq_ok.1 hr
  exact (h _ t hu ht (hrest.congr rfl)).of_pullWith_eq (pullWith_aead_dec_header hp hm hd hf hi hheader hh hseed) (by simp)

end

/-! ### The round trip -/

/-- The registers that an AEAD `START` sets up, with the header's product in the accumulator (R151, R152, R160). -/
def aeadStartRegs (k : Collab) (n : Nat) (nonce : Bytes) (cw hlen : Nat) (acc : Elem) : AeadRegs :=
  ⟨nonce, cw, 1, acc, hashSubkey k n, tagMask k n nonce cw, 0, hlen⟩

theorem aeadOpened_some (k : Collab) (d : Dir) (nonce : Bytes) (cw hlen : Nat) (acc : Elem) (s : State) :
    aeadOpened k d nonce cw hlen (some acc) s = setAcc acc (aeadOpened k d nonce cw hlen none s) := rfl

/-- A configuration in which an AEAD `START` passes its checks (R151, R152), and the header's product `acc`. -/
structure AeadReady (k : Collab) (s : State) (nonce header : Bytes) (cw : Nat) (acc : Elem) : Prop where
  block : 0 < s.bsize
  hasNonce : s.nonce = some nonce
  hasCw : s.cw = some cw
  checks : aeadChecks s (some header.length) = .ok (nonce, cw, header.length)
  seed : headerSeed k s.bsize header s.poly = .ok acc
  full : FullElem s acc

section
variable {k : Collab} {s : State} {nonce header tag t plain : Bytes} {cw : Nat} {acc : Elem} {cs xs : List Bytes}

/-- The session over the source `src` with the header's product in the accumulator, where encrypt starts and to which decrypt
gets by its first item. -/
theorem AeadReady.opened (h : AeadReady k s nonce header cw acc) (d : Dir) (src : Source) :
    InAead s.bsize s.poly d .start (aeadStartRegs k s.bsize nonce cw header.length acc)
      (aeadOpened k d nonce cw header.length (some acc) (linedUp src s)) := by
  obtain ⟨-, hn, hw, hc, -, hfull⟩ := h
  obtain ⟨hs, -⟩ := aeadShared_of_aeadChecks (k := k) (d := d) (s := clearSession (linedUp src s)) rfl hc
  exact ⟨rfl, rfl, rfl, rfl, rfl, hs.congr rfl, ⟨acc, rfl, hfull⟩, aeadRegs_eq_ok.2 ⟨hn, hw, rfl, rfl, rfl, rfl, rfl, rfl⟩⟩

/-- `ENCRYPT AEAD` of whole blocks gives the header block, then ciphertext blocks and a tag block, which a decrypt session
with the registers of `START` opens. -/
theorem streamCall_aead_enc (h : AeadReady k s nonce header cw acc) (hh : s.header = some header) (hne : plain ≠ [])
    (hblocks : plain.length % s.bsize = 0) (hcount : plain.length / s.bsize < 2 ^ (8 * cw)) :
    ∃ cs tag, cs.map List.length = (chunksOf s.bsize plain).map List.length ∧ tag.length = s.bsize ∧
      streamCall k .aead .enc (sourceOf s.bsize plain) s =
        some ⟨headerBlock s.bsize header ++ (cs.flatten ++ tag), .done none⟩ ∧
      OpensTo k s.bsize s.poly (aeadStartRegs k s.bsize nonce cw header.length acc) cs tag (chunksOf s.bsize plain) := by
  have hu := h.opened .enc (sourceOf s.bsize plain)
  have hstart : startWith k .aead .enc (linedUp (sourceOf s.bsize plain) s) = _ := startWith_aead_enc h.checks hh h.seed
  have hitems := delivers_frame (content := plain) hu.bsize h.block rfl rfl
  have hframe := frame_of_ne_nil (b := s.bsize) hne
  have hchunks : chunksOf s.bsize plain ≠ [] := fun e => frame_ne_nil h.block plain (by rw [hframe, e]; rfl)
  have hbound : 1 + (chunksOf s.bsize plain).length ≤ 2 ^ (8 * cw) := by
    rw [length_chunksOf_of_blocks h.block hblocks]
    omega
  obtain ⟨cs, tag, hlengths, htag, hyields, hopens⟩ := aeadEnc_seals_header (k := k) hu hh hchunks (hframe ▸ hitems)
    (length_of_mem_chunksOf h.block hblocks) hbound
  have hcount : cs.length = (chunksOf s.bsize plain).length := by simpa using congrArg List.length hlengths
  refine ⟨cs, tag, hlengths, htag, ?_, hopens⟩
  rw [streamCall_of_yields_lt (hstart ▸ rfl) (hstart ▸ hyields) (by simp [pullBound, sourceOf, hcount])]
  simp

/-- `DECRYPT AEAD` of a header block, ciphertext blocks that a session with the registers of `START` opens, and any tag
block. -/
theorem streamCall_aead_dec (h : AeadReady k s nonce header cw acc) (hl : s.hlenCfg = some header.length)
    (hopens : OpensTo k s.bsize s.poly (aeadStartRegs k s.bsize nonce cw header.length acc) cs tag xs)
    (hlengths : cs.map List.length = xs.map List.length) (hxs : ∀ x ∈ xs, x.length = s.bsize) (ht : t.length = s.bsize) :
    streamCall k .aead .dec (sourceOf s.bsize (headerBlock s.bsize header ++ (cs.flatten ++ t))) s =
      some ⟨xs.flatten, .done (some (decide (tag = t)))⟩ := by
  have hcs : ∀ c ∈ headerBlock s.bsize header :: cs, c.length = s.bsize := by
    have hlen : ∀ l ∈ cs.map List.length, l = s.bsize := hlengths ▸ List.forall_mem_map.2 hxs
    exact List.forall_mem_cons.2 ⟨beBytes_length .., List.forall_mem_map.1 hlen⟩
  have hframe := frame_of_blocks h.block hcs ht
  rw [List.flatten_cons, List.append_assoc, List.map_cons, List.cons_append] at hframe
  generalize headerBlock s.bsize header ++ (cs.flatten ++ t) = content at hframe ⊢
  have hu := h.opened .dec (sourceOf s.bsize content)
  rw [aeadOpened_some] at hu
  have hstart : startWith k .aead .dec (linedUp (sourceOf s.bsize content) s) =
      aeadOpened k .dec nonce cw header.length none (linedUp (sourceOf s.bsize content) s) :=
    startWith_aead_dec (hl ▸ h.checks)
  have hitems : Delivers (aeadOpened k .dec nonce cw header.length none (linedUp (sourceOf s.bsize content) s)) _ :=
    delivers_frame rfl h.block rfl rfl
  have hyields := hopens.after_header hu h.seed (beBytes_length ..) ht (hframe ▸ hitems)
  have hcount : xs.length = cs.length := by simpa using (congrArg List.length hlengths).symm
  refine streamCall_of_frame (hstart ▸ rfl) (hstart ▸ hyields) ?_
  rw [hframe, List.length_cons, List.length_append, List.length_map]
  omega

end

/-- Settles O60: encrypt and decrypt start with the same registers, as decrypt makes the header's product of its first item;
they keep them the same from block to block, so the tag that decrypt recomputes is the one that encrypt sent. -/
theorem aeadRoundTripAndTamperedTag : Obligations.AeadRoundTripAndTamperedTag := by
  intro k s nonce header plain cw p hsel hn hw hh hsum hhalf hle hl hne hblocks hcount
  have hb : 0 < s.bsize := by
    refine Nat.pos_of_ne_zero fun h0 => hne (List.eq_nil_of_length_eq_zero ?_)
    rwa [h0, Nat.mod_zero] at hblocks
  obtain ⟨acc, hseed, hfull⟩ := headerSeed_exists k header hsel
  have h : AeadReady k s nonce header cw acc := ⟨hb, hn, hw, aeadChecks_ok hsel hn hw hsum hhalf hle, hseed, hfull⟩
  obtain ⟨cs, tag, hlengths, htag, henc, hopens⟩ := streamCall_aead_enc h hh hne hblocks hcount
  have hdec {t : Bytes} (ht : t.length = s.bsize) :=
    streamCall_aead_dec h hl hopens hlengths (length_of_mem_chunksOf hb hblocks) ht
  rw [flatten_chunksOf hb] at hdec
  refine ⟨headerBlock s.bsize header ++ cs.flatten, tag, htag, ?_, ?_, ?_, fun other hother hother_ne => ?_⟩
  · rw [List.length_append, length_flatten_congr hlengths, flatten_chunksOf hb, headerBlock, beBytes_length, Nat.add_comm]
  · rw [List.append_assoc, henc]
  · rw [List.append_assoc, hdec htag, decide_eq_true rfl]
  · rw [List.append_assoc, hdec hother, decide_eq_false hother_ne.symm]

end Sys2Proof.Machine
end

section
/-!
PROOFS. The session and register commands (spec/46_session_commands.md): `PULL` outside a session and at a failing source
(R172), `ABANDON` (R173), `CFG.WR` (R178), `REG.RD` (R179), and where a command is rejected (R170, R176).
-/

namespace Sys2Proof.Machine

/-! ### `CFG.WR` -/

/-- A session is active in three phases (R170). -/
theorem active_iff {p : Phase} : p.active = true ↔ p = .start ∨ p = .chaining ∨ p = .final := by
  cases p <;> decide

/-- The six configuration registers (R41). -/
theorem isCfgReg_iff_mem {r : Reg} : isCfgReg r = true ↔ r ∈ [Reg.nonce, .cw, .iv, .header, .hlenCfg, .poly] := by
  cases r <;> decide

section
variable {r : Reg} {x : Value} {s t u : State}

theorem exec_cfgWr_of_active (ha : s.phase.active = true) : exec (.cfgWr r x) s = .next (reject s) :=
  if_pos ha

theorem exec_cfgWr_of_not_cfgReg (hr : isCfgReg r = false) : exec (.cfgWr r x) s = .next (reject s) := by
  rw [exec, execCfgWr, if_pos hr, ite_self]

theorem exec_cfgWr_of_writeCfg (ha : s.phase.active = false) (hr : isCfgReg r = true) (hw : writeCfg s r x = some u) :
    exec (.cfgWr r x) s = .next (respond .ok u) := by
  simp only [exec, execCfgWr, ha, hr, hw, Bool.false_eq_true, Bool.true_eq_false, if_false]

/-- Where `CFG.WR` is legal and answers, it has written the register (R178). -/
theorem exec_cfgWr_legal (ha : s.phase.active = false) (hr : isCfgReg r = true) (e : exec (.cfgWr r x) s = .next t) :
    ∃ u, writeCfg s r x = some u ∧ t = respond .ok u := by
  by_cases hk : x.kind = r.kind
  · obtain ⟨u, hu⟩ := writeCfg_exists s hr hk
    exact ⟨u, hu, Host.Outcome.next.inj (e.symm.trans (exec_cfgWr_of_writeCfg ha hr hu))⟩
  · cases (exec_cfgWr_of_kind_ne ha hr hk).symm.trans e

end

/-! ### `REG.RD` -/

/-- `REG.RD` answers what the register holds, and writes nothing else (R179). -/
theorem exec_regRd (r : Reg) (s : State) :
    exec (.regRd r) s = .next (respond ((readReg s r).elim .rejected .value) s) := by
  rw [exec, execRegRd]
  cases readReg s r <;> rfl

/-- The code of `FAULT`, with R193's table written out. -/
theorem faultCode_eq (x : Option FaultClass) :
    faultCode x = match x with
      | none => 0 | some .configuration => 1 | some .paddingScheme => 2 | some .stream => 3
      | some .internalInvariant => 4 | some .range => 5 | some .argument => 6 | some .blockLength => 7 := by
  cases x with
  | none => rfl
  | some f => cases f <;> rfl

/-- The code of `VERIFY`: bit 1 is `VALID`, bit 0 is `OK` (R31). -/
theorem Verify.code_eq (v : Verify) :
    v.code = match v.valid, v.ok with
      | false, false => 0b00 | false, true => 0b01 | true, false => 0b10 | true, true => 0b11 := by
  obtain ⟨valid, ok⟩ := v
  cases valid <;> cases ok <;> rfl

/-- `LA` holds a value in `PRIMED` alone (R37). -/
theorem readReg_la (s : State) :
    readReg s .la = match s.seq with | .primed c => some (.bytes c) | _ => none := by
  rw [readReg]
  cases s.seq <;> rfl

/-! ### A command that is not rejected -/

/-- One response was given, and it is not `Rejected`. -/
def NotRejected (s t : State) : Prop := ∃ r, r ≠ .rejected ∧ t.responses = r :: s.responses

section
variable {s t u : State}

theorem notRejected_respond {r : Response} (hr : r ≠ .rejected) (hu : u.responses = s.responses) :
    NotRejected s (respond r u) :=
  ⟨r, hr, congrArg (r :: ·) hu⟩

/-- A `START` answers `Ok` or a fault (R171). -/
theorem startWith_notRejected (k : Collab) (m : Mode) (d : Dir) (s : State) : NotRejected s (startWith k m d s) := by
  obtain ⟨u, hu, e⟩ | ⟨f, -, e⟩ := startSession_cases m d (startRule k m d) s
  · obtain ⟨-, hr⟩ := startRule_frame hu
    rw [startWith, e]
    exact notRejected_respond nofun hr
  · rw [startWith, e]
    exact ⟨.fault f, nofun, rfl⟩

theorem exec_start_notRejected {i : Instr} {m : Mode} {d : Dir} (h : startsSession i = some (m, d))
    (e : exec i s = .next t) : NotRejected s t := by
  rw [exec_of_startsSession h] at e
  exact Host.Outcome.next.inj e ▸ startWith_notRejected Config.collab m d s

theorem responses_of_held (h : heldFields u = heldFields s) : u.responses = s.responses := by
  obtain ⟨-, -, hr⟩ := verify_of_held h
  exact hr

/-- A step of a session answers `Out`, `Done` or a fault (R172). -/
theorem pullWith_notRejected_of_active {k : Collab} (ha : s.phase.active = true) (e : pullWith k s = .next t) :
    NotRejected s t := by
  cases pullWith_effect e with
  | answered r h => cases ha.symm.trans h
  | faulted x u h hu e => exact e ▸ ⟨.fault x, nofun, congrArg _ (responses_of_held hu)⟩
  | moved b u hm hd hu hp e => exact e ▸ notRejected_respond nofun (responses_of_held hu)
  | verified v u hm hd hp hu hv e => exact e ▸ ⟨.done (some v.ok), nofun, congrArg _ (responses_of_held hu)⟩

/-- `PULL` is legal in every phase but `IDLE` (R170, R172). -/
theorem pullWith_notRejected {k : Collab} (hp : s.phase ≠ .idle) (e : pullWith k s = .next t) : NotRejected s t := by
  by_cases ha : s.phase.active = true
  · exact pullWith_notRejected_of_active ha e
  · cases pull_next e with
    | idle h => exact absurd h hp
    | done h e => exact e ▸ notRejected_respond nofun rfl
    | flt x h hx e => exact e ▸ notRejected_respond nofun rfl
    | ecbE h | ecbD h | cbcE0 h | cbcE h | cbcD0 h | cbcD h | ctr _ h | aeE0 h | aeE h | aeT h | aeD0 h | aeD h =>
      exact absurd (congrArg Phase.active h) ha

theorem response_ne_rejected (x : SeqResult) : x.response ≠ .rejected := by
  cases x <;> nofun

theorem responseOf_ne_rejected (x : Except FaultClass Elem) : responseOf x ≠ .rejected := by
  cases x <;> nofun

/-! ### A command that is rejected -/

/-- From `s` to `t` the command was rejected exactly if `illegal` holds, and then only the transcript changed (R176). -/
def RejectedExactlyIf (illegal : Prop) (s t : State) : Prop :=
  (t.responses = .rejected :: s.responses ↔ illegal) ∧ (t.responses = .rejected :: s.responses → t = reject s)

theorem rejectedExactlyIf_reject {illegal : Prop} (h : illegal) (s : State) : RejectedExactlyIf illegal s (reject s) :=
  ⟨⟨fun _ => h, fun _ => rfl⟩, fun _ => rfl⟩

theorem NotRejected.exactlyIf {illegal : Prop} (h : NotRejected s t) (hl : ¬ illegal) : RejectedExactlyIf illegal s t := by
  obtain ⟨r, hr, e⟩ := h
  have hne : t.responses ≠ .rejected :: s.responses := fun h' => hr (List.cons.inj (e.symm.trans h')).1
  exact ⟨⟨fun h' => absurd h' hne, fun h' => absurd h' hl⟩, fun h' => absurd h' hne⟩

theorem seqNext_rejectedExactlyIf (e : exec .seqNext s = .next t) : RejectedExactlyIf (s.phase ≠ .idle) s t := by
  by_cases hp : s.phase = .idle
  · cases hf : sourceFits s with
    | true =>
      rw [exec_seqNext_of_idle hp hf] at e
      exact Host.Outcome.next.inj e ▸
        (notRejected_respond (response_ne_rejected _) (seqNext_responses s)).exactlyIf (not_not.2 hp)
    | false => cases (exec_seqNext_of_not_fits hp hf).symm.trans e
  · rw [exec_seqNext_of_not_idle hp] at e
    exact Host.Outcome.next.inj e ▸ rejectedExactlyIf_reject hp s

theorem pullWith_rejectedExactlyIf {k : Collab} (e : pullWith k s = .next t) :
    RejectedExactlyIf (s.phase = .idle) s t := by
  by_cases hp : s.phase = .idle
  · exact Host.Outcome.next.inj ((pullWith_idle hp).symm.trans e) ▸ rejectedExactlyIf_reject hp s
  · exact (pullWith_notRejected hp e).exactlyIf hp

theorem cfgWr_rejectedExactlyIf {r : Reg} {x : Value} (e : exec (.cfgWr r x) s = .next t) :
    RejectedExactlyIf (s.phase.active = true ∨ ¬ isCfgReg r = true) s t := by
  cases ha : s.phase.active with
  | true => exact Host.Outcome.next.inj ((exec_cfgWr_of_active ha).symm.trans e) ▸ rejectedExactlyIf_reject (.inl rfl) s
  | false =>
    cases hr : isCfgReg r with
    | false =>
      exact Host.Outcome.next.inj ((exec_cfgWr_of_not_cfgReg hr).symm.trans e) ▸ rejectedExactlyIf_reject (.inr nofun) s
    | true =>
      obtain ⟨u, hu, rfl⟩ := exec_cfgWr_legal ha hr e
      obtain ⟨nonce, cw, iv, header, hlen, poly, rfl, -⟩ := writeCfg_frame hu
      exact NotRejected.exactlyIf ⟨.ok, nofun, rfl⟩ (by decide)

theorem regRd_rejectedExactlyIf {r : Reg} (e : exec (.regRd r) s = .next t) :
    RejectedExactlyIf (readReg s r = none) s t := by
  rw [exec_regRd] at e
  obtain rfl := Host.Outcome.next.inj e
  cases readReg s r with
  | none => exact rejectedExactlyIf_reject rfl s
  | some x => exact (notRejected_respond (r := .value x) nofun rfl).exactlyIf nofun

end

/-! ### The statements -/

/-- Settles O43: four commands can be illegal, each with its own test; every other one answers what is not `Rejected`. -/
theorem rejectedExactlyWhenIllegal : Obligations.RejectedExactlyWhenIllegal := by
  intro i s t e
  change RejectedExactlyIf _ s t
  cases i with
  | seqNext => exact seqNext_rejectedExactlyIf e
  | pull => exact pullWith_rejectedExactlyIf e
  | cfgWr r x =>
    have h := cfgWr_rejectedExactlyIf e
    rwa [active_iff, isCfgReg_iff_mem] at h
  | regRd r => exact regRd_rejectedExactlyIf e
  | feNew n v | feXor a b | feMult a b p =>
    obtain ⟨x, hx⟩ : ∃ x, answerElem x s = t := ⟨_, Host.Outcome.next.inj e⟩
    rw [answerElem_eq_respond] at hx
    exact hx ▸ (notRejected_respond (responseOf_ne_rejected x) rfl).exactlyIf id
  | feToint a => exact Host.Outcome.next.inj e ▸ (notRejected_respond (r := .int a.v) nofun rfl).exactlyIf id
  | abandon =>
    have h : NotRejected s (respond .ok (clearSession s)) := notRejected_respond nofun rfl
    exact Host.Outcome.next.inj e ▸ h.exactlyIf id
  | startEcbEnc | startEcbDec | startCbcEnc | startCbcDec | startCtrEnc | startCtrDec | startAeadEnc | startAeadDec =>
    exact (exec_start_notRejected rfl e).exactlyIf id

/-- Settles O28: `clearSession` writes these registers, from every state. -/
theorem abandonReturnsToIdle : Obligations.AbandonReturnsToIdle := fun _ => rfl

/-- Settles O29: one row of R172 for each phase without an active session. -/
theorem pullWithoutAnActiveSession : Obligations.PullWithoutAnActiveSession :=
  ⟨fun _ hp => pullWith_idle (k := Config.collab) hp, fun _ hp => pullWith_done (k := Config.collab) hp,
    fun _ _ hp hx => pullWith_faulted (k := Config.collab) hp hx⟩

/-- Settles O30: every such step begins by taking an item, and what follows does not run. -/
theorem pullFaultsWhenTheSourceFails : Obligations.PullFaultsWhenTheSourceFails := by
  intro s s1 m d hf hm hd hp hi
  obtain ⟨body, hb⟩ := pullWith_takes_item Config.collab hm hd hp
  exact hb.trans (withItem_failed hf hi)

/-- Settles O40: the write of each configuration register, and the two tests before it. -/
theorem cfgWrWritesTheNamedRegister : Obligations.CfgWrWritesTheNamedRegister := by
  refine ⟨fun s ha => ?_, fun s r x hp => exec_cfgWr_of_active (active_iff.2 hp), fun s r x hr => ?_⟩
  · have h {r : Reg} {x : Value} (u : State) (hr : isCfgReg r = true) (hw : writeCfg s r x = some u) :=
      exec_cfgWr_of_writeCfg ha hr hw
    exact ⟨fun x => h { s with nonce := some x } rfl rfl, fun x => h { s with cw := some x } rfl rfl,
      fun x => h { s with iv := some x } rfl rfl, fun x => h { s with header := some x } rfl rfl,
      fun x => h { s with hlenCfg := some x } rfl rfl, fun x => h { s with poly := x } rfl rfl⟩
  · rw [← isCfgReg_iff_mem, Bool.not_eq_true] at hr
    exact exec_cfgWr_of_not_cfgReg hr

/-- Settles O41: `REG.RD` answers what `readReg` gives, register by register. -/
theorem regRdReadsTheNamedRegister : Obligations.RegRdReadsTheNamedRegister := by
  intro s answer
  have h {r : Reg} {x : Option Value} (hx : readReg s r = x) : answer r x := hx ▸ exec_regRd r s
  have hfault := congrArg (fun c => some (Value.bits3 c)) (faultCode_eq s.fault)
  have hverify := congrArg (fun c => some (Value.bits2 c)) (Verify.code_eq s.verify)
  exact ⟨h rfl, h rfl, h rfl, h rfl, h rfl, h rfl, h rfl, h rfl, h rfl, h rfl, h hfault, h hverify, h rfl, h rfl, h rfl,
    h rfl, h rfl, h rfl, h rfl, h rfl, h (readReg_la s)⟩

end Sys2Proof.Machine
end

section
/-!
PROOFS. Fault entry (spec/60_exceptions.md R197): the state that a faulting `START` or `PULL` step leaves, and the answer,
alone, of every other command that faults.
-/

namespace Sys2Proof.Machine

/-- Taking a fault leaves no data register with a value (R197). -/
theorem noData_enterFault (x : FaultClass) (s : State) : NoData (enterFault x s) := ⟨rfl, rfl, rfl, rfl, rfl, rfl, rfl⟩

section
variable {k : Collab} {m : Mode} {d : Dir} {s t u : State} {x y : FaultClass} {r : Response}

/-- A command that ends with `respond r` gave the response `r`. -/
theorem response_eq_of_respond {l : List Response} {r' : Response} (h : (respond r u).responses = r' :: l) : r = r' :=
  (List.cons.inj h).1

theorem enterFault_eq_of_responses {l : List Response} (h : (enterFault y u).responses = .fault x :: l) :
    enterFault y u = enterFault x u := by
  cases response_eq_of_respond h
  rfl

/-- A `START` that answers a fault has taken it with the mode and direction of its command word (R171, R197). -/
theorem startWith_of_fault (h : (startWith k m d s).responses = .fault x :: s.responses) :
    startWith k m d s = enterFault x (setKind m d (clearSession s)) := by
  obtain ⟨v, -, e⟩ | ⟨f, -, e⟩ := startSession_cases m d (startRule k m d) s
  · rw [startWith, e] at h
    cases response_eq_of_respond h
  · rw [startWith, e] at h ⊢
    exact enterFault_eq_of_responses h

/-- A step of a session that answers a fault has taken it, with `MODE`, `DIR` and `VERIFY` as they were (R197). -/
theorem pullWith_of_fault (ha : s.phase.active = true) (e : pullWith k s = .next t)
    (h : t.responses = .fault x :: s.responses) : ∃ v, heldFields v = heldFields s ∧ t = enterFault x v := by
  cases pullWith_effect e with
  | answered r hn => cases ha.symm.trans hn
  | faulted y v _ hv e =>
    subst e
    exact ⟨v, hv, enterFault_eq_of_responses h⟩
  | moved b v _ _ _ _ e =>
    subst e
    cases response_eq_of_respond h
  | verified w v _ _ _ _ _ e =>
    subst e
    cases response_eq_of_respond h

/-- `Out` is answered in an active session alone (R29, R172). -/
theorem OutMove.source_active {p q : Phase} (h : OutMove m d p q) : p.active = true := by
  cases h <;> rfl

/-- Outside an active session a `PULL` writes no register (R172). -/
theorem pullWith_of_inactive (ha : ¬ s.phase.active = true) (e : pullWith k s = .next t) : ∃ r, t = respond r s := by
  cases pullWith_effect e with
  | answered r _ e => exact ⟨r, e⟩
  | faulted y v h => exact absurd h ha
  | moved b v _ _ _ hmove => exact absurd hmove.source_active ha
  | verified w v _ _ hp => exact absurd (active_iff.2 (hp.imp_right .inl)) ha

/-- The fault of a command outside a session is its response alone, but for what `SEQ.NEXT` has taken from the source
(R118, R197). -/
theorem exec_of_fault_outside {i : Instr} (hst : startsSession i = none) (hp : ¬ (i = .pull ∧ s.phase.active = true))
    (e : exec i s = .next t) (h : t.responses = .fault x :: s.responses) :
    t = respond (.fault x) s ∨ (i = .seqNext ∧ t = respond (.fault x) (seqNext s).1) := by
  have alone : ∀ {r}, t = respond r s → t = respond (.fault x) s := by
    rintro r rfl
    rw [response_eq_of_respond h]
  cases i with
  | feNew n v | feXor a b | feMult a b p =>
    obtain ⟨r, hr⟩ := answerElem_eq _ s
    exact .inl (alone ((Host.Outcome.next.inj e).symm.trans hr))
  | feToint a => exact .inl (alone (Host.Outcome.next.inj e).symm)
  | seqNext =>
    obtain rfl | ⟨-, rfl⟩ := execSeqNext_next e
    · exact .inl (alone rfl)
    · exact .inr ⟨rfl, by rw [response_eq_of_respond h]⟩
  | pull =>
    obtain ⟨r, hr⟩ := pullWith_of_inactive (fun ha => hp ⟨rfl, ha⟩) e
    exact .inl (alone hr)
  | abandon =>
    obtain rfl := Host.Outcome.next.inj e
    cases response_eq_of_respond h
  | cfgWr r v =>
    obtain rfl | ⟨-, u, -, rfl⟩ := execCfgWr_next e
    · exact .inl (alone rfl)
    · cases response_eq_of_respond h
  | regRd r =>
    obtain ⟨r, hr⟩ := execRegRd_next e
    exact .inl (alone hr)
  | startEcbEnc | startEcbDec | startCbcEnc | startCbcDec | startCtrEnc | startCtrDec | startAeadEnc | startAeadDec =>
    cases hst

end

/-- Settles O46: what a faulting `START` and a faulting `PULL` step leave, and the bare answer of every other command. -/
theorem faultEntryFollowsR197 : Obligations.FaultEntryFollowsR197 := by
  intro i s t x e h
  cases hst : startsSession i with
  | some md =>
    obtain ⟨m, d⟩ := md
    have hpull : ¬ (i = .pull ∧ s.phase.active = true) := by
      rintro ⟨rfl, -⟩
      cases hst
    rw [exec_of_startsSession hst] at e
    obtain rfl := Host.Outcome.next.inj e
    rw [startWith_of_fault h]
    refine ⟨fun _ => ⟨rfl, rfl, noData_enterFault x _⟩, fun hp => absurd hp hpull, ?_, nofun⟩
    rintro _ _ ⟨⟩
    exact ⟨rfl, rfl, rfl, rfl⟩
  | none =>
    by_cases hp : i = .pull ∧ s.phase.active = true
    · obtain ⟨rfl, ha⟩ := hp
      obtain ⟨u, hu, rfl⟩ := pullWith_of_fault ha e h
      obtain ⟨hm, hd⟩ := kind_of_held hu
      obtain ⟨-, hv, -⟩ := verify_of_held hu
      exact ⟨fun _ => ⟨rfl, rfl, noData_enterFault x u⟩, fun _ => ⟨hm, hd, hv⟩, nofun, fun _ hn => absurd ⟨rfl, ha⟩ hn⟩
    · refine ⟨fun hs => absurd hs (by simp [hp]), fun h' => absurd h' hp, nofun, fun _ _ => ?_⟩
      obtain rfl | ⟨rfl, rfl⟩ := exec_of_fault_outside hst hp e h
      · exact ⟨s.seq, s.src, s.drawn, s.calls, rfl, fun _ => ⟨rfl, rfl, rfl, rfl⟩⟩
      · obtain ⟨q, src, d, l, hf⟩ := seqNext_frame s
        exact ⟨q, src, d, l, by rw [hf]; rfl, fun hn => absurd rfl hn⟩

end Sys2Proof.Machine
end

section
/-!
PROOFS. Reset (spec/70_reset_and_hazards.md R211) and the frozen configuration (R222): the state after reset and its
invariant, and that `CFG.WR` alone writes a configuration register.
-/

namespace Sys2Proof.Machine

/-! ### The configuration registers -/

/-- The configuration registers (R32 to R35), the only ones `CFG.WR` writes. -/
def configRegisters (s : State) := (s.nonce, s.cw, s.iv, s.header, s.hlenCfg, s.poly)

section
variable {k : Collab} {m : Mode} {d : Dir} {s t u : State}

theorem configRegisters_seqNext (s : State) : configRegisters (seqNext s).1 = configRegisters s := by
  simp [configRegisters]

theorem configRegisters_of_held (h : heldFields u = heldFields s) : configRegisters u = configRegisters s := by
  simp only [heldFields, Prod.mk.injEq] at h
  obtain ⟨-, hn, hw, hi, hh, hl, hp, -⟩ := h
  simp only [configRegisters, hn, hw, hi, hh, hl, hp]

/-- A `START` rule that opens a session reads the configuration and does not write it (R171). -/
theorem configRegisters_of_startRule (e : startRule k m d s = .ok u) : configRegisters u = configRegisters s := by
  cases m with
  | ecb => cases d <;> exact Except.ok.inj e ▸ rfl
  | cbc =>
    cases d with
    | enc =>
      obtain ⟨iv, -, -, e'⟩ | e' := cbcEncStart_cases s
      · exact Except.ok.inj (e'.symm.trans e) ▸ rfl
      · cases e'.symm.trans e
    | dec => exact Except.ok.inj e ▸ rfl
  | ctr =>
    obtain ⟨-, rfl⟩ := ctrStartRule_ok e
    rfl
  | aead =>
    cases d with
    | enc =>
      obtain ⟨nonce, cw, header, acc, -, -, -, rfl⟩ := aeadEncStart_ok e
      rfl
    | dec =>
      obtain ⟨nonce, cw, hlen, -, rfl⟩ := aeadDecStart_ok e
      rfl

/-- Neither discarding the old session, nor the mode's rule, nor its fault writes the configuration (R171, R197). -/
theorem configRegisters_startWith (k : Collab) (m : Mode) (d : Dir) (s : State) :
    configRegisters (startWith k m d s) = configRegisters s := by
  obtain ⟨u, hu, e⟩ | ⟨f, -, e⟩ := startSession_cases m d (startRule k m d) s
  · rw [startWith, e]
    exact (configRegisters_of_startRule hu :)
  · rw [startWith, e]
    rfl

theorem configRegisters_of_pullWith (e : pullWith k s = .next t) : configRegisters t = configRegisters s := by
  cases pullWith_effect e with
  | answered r h e => exact e ▸ rfl
  | faulted x u h hu e | moved b u hm hd hu hp e | verified v u hm hd hp hu hv e =>
    subst e
    exact (configRegisters_of_held hu :)

/-- No command but `CFG.WR` writes a configuration register, in any phase (R42, R222). -/
theorem configRegisters_of_exec {i : Instr} (hi : ∀ r x, i ≠ .cfgWr r x) (e : exec i s = .next t) :
    configRegisters t = configRegisters s := by
  cases hst : startsSession i with
  | some md =>
    obtain ⟨m, d⟩ := md
    rw [exec_of_startsSession hst] at e
    exact Host.Outcome.next.inj e ▸ configRegisters_startWith Config.collab m d s
  | none =>
    cases i with
    | feNew n v | feXor a b | feMult a b p =>
      obtain ⟨r, hr⟩ := answerElem_eq _ s
      exact Host.Outcome.next.inj e ▸ hr ▸ rfl
    | feToint a => exact Host.Outcome.next.inj e ▸ rfl
    | seqNext =>
      obtain rfl | ⟨-, rfl⟩ := execSeqNext_next e
      · rfl
      · exact configRegisters_seqNext s
    | pull => exact configRegisters_of_pullWith e
    | abandon => exact Host.Outcome.next.inj e ▸ rfl
    | cfgWr r x => exact absurd rfl (hi r x)
    | regRd r =>
      obtain ⟨x, rfl⟩ := execRegRd_next e
      rfl
    | startEcbEnc | startEcbDec | startCbcEnc | startCbcDec | startCtrEnc | startCtrDec | startAeadEnc | startAeadDec =>
      cases hst

end

/-! ### The statements -/

/-- Settles O44: `CFG.WR` is rejected in an active session, and every other command leaves the configuration alone. -/
theorem configurationIsFrozenDuringASession : Obligations.ConfigurationIsFrozenDuringASession := by
  refine ⟨fun r x s hp => exec_cfgWr_of_active (active_iff.2 hp), fun i s t e hi => ?_⟩
  simpa only [configRegisters, Prod.mk.injEq] using configRegisters_of_exec hi e

/-- Settles O6: R211's table is what `State.reset` writes, and `LA` holds no value as `SEQ_PHASE` is `UNPRIMED`. -/
theorem resetLeavesTheTableOfR211 : Obligations.ResetLeavesTheTableOfR211 := by
  unfold Obligations.ResetLeavesTheTableOfR211
  simp only [State.reset, Sequencer.la, and_self]

theorem inputsOk_reset : InputsOk State.reset where
  block := Nat.succ_pos Config.blockSizePred
  source := rfl
  sources := nofun
  lookahead := nofun
  poly := rfl
  commands := nofun

/-- Settles O51: after reset the ports are empty and `B` is positive, and `PHASE` is `IDLE`, in which no session register
holds a value. -/
theorem resetMeetsTheInvariant : Obligations.ResetMeetsTheInvariant := by
  have hnodata : NoData State.reset := ⟨rfl, rfl, rfl, rfl, rfl, rfl, rfl⟩
  exact stateInv_iff.2 ⟨inputsOk_reset, (sessionOk_of_idle rfl).2 ⟨rfl, rfl, rfl, rfl, hnodata⟩⟩

end Sys2Proof.Machine
end
